-- ==== Sys2Proof/Word.lean ====
section
/-! DEFINITION. The fixed-width words of the block: bytes, 16-bit words, 32-bit words. -/

namespace Sys2Proof

/-- A byte, 0..255 (R18, R101). -/
abbrev Byte := BitVec 8

/-- A 16-bit word, 0..65535 (R15, R20). -/
abbrev Word16 := BitVec 16

/-- A 32-bit word (R22, the framed timestamp). -/
abbrev Word32 := BitVec 32

/-- A 29-bit arbitration ID as the command port carries it (R101). -/
abbrev CanId := BitVec 29

end Sys2Proof
end

