-- ==== Sys2Proof/Config.lean ====
section
/-! DEFINITION. The implementation parameters of 00_scope.md section 4 (R8 to R14), the types of the
parameter P_FIELD_TABLE (R111, R112), the names of the snapshot fields (R31, R32) and the values that the spec
leaves open. A parameter is fixed when the block is built (R47): the State carries the
parameters as plain data and no step writes them. -/

namespace Sys2Proof

/-- The sixteen AN400 messages, in the order of the dispatch table (R106, R180). -/
inductive PE where
  | pe1 | pe2 | pe3 | pe4 | pe5 | pe6 | pe7 | pe8
  | pe9 | pe10 | pe11 | pe12 | pe13 | pe14 | pe15 | pe16
deriving DecidableEq, Repr

/-- Every message, in the order of the dispatch table (R180). -/
def PE.all : List PE :=
  [.pe1, .pe2, .pe3, .pe4, .pe5, .pe6, .pe7, .pe8, .pe9, .pe10, .pe11, .pe12, .pe13, .pe14, .pe15, .pe16]

/-- The rational fields of the telemetry snapshot: the basic ones of R31 (all but `rpm`, which is a
natural and stands apart), then the extended ones of R32. -/
inductive Field where
  -- R31, basic
  | tpsPct | fotMs | ignDeg | baroKpa | mapKpa | lambda | lambda2 | lambdaTarget
  | oilPsi | battV | coolantC | airC | wsFlHz | wsFrHz | wsBlHz | wsBrHz
  -- R32, extended
  | ai1V | ai2V | ai3V | ai4V | ai5V | ai6V | ai7V | ai8V
  | therm5Temp | therm7Temp
  | rpmRate | tpsRate | mapRate | mafLoadRate
  | pwmDutyPct1 | pwmDutyPct2 | pwmDutyPct3 | pwmDutyPct4
  | pwmDutyPct5 | pwmDutyPct6 | pwmDutyPct7 | pwmDutyPct8
  | slipPct | drivenWheelRoc | tractionDesiredPct
  | drivenAvgWs | nondrivenAvgWs | ignCompDeg | ignCutPct
  | drivenWs1 | drivenWs2 | nondrivenWs1 | nondrivenWs2
  | fuelCompAccelPct | fuelCompStartPct | fuelCompAirPct | fuelCompCoolantPct
  | fuelCompBaroPct | fuelCompMapPct
  | ignCompAirDeg | ignCompCoolantDeg | ignCompBaroDeg | ignCompMapDeg
deriving DecidableEq, Repr

/-- How many rational fields the snapshot has. -/
abbrev Field.count : Nat := 59

/-- The place of a field in the snapshot register file: its place in the list above. -/
def Field.idx (f : Field) : Fin Field.count :=
  ⟨f.ctorIdx, by cases f <;> decide⟩

/-- A value of the snapshot: `rpm`, or a rational field (R31, R32). -/
inductive Slot where
  | rpm
  | val (f : Field)
deriving DecidableEq, Repr

/-- The width and signedness of a payload field (R111, R150 to R152, R154). -/
inductive Read where
  | u16   -- `U(k)`, R150
  | s16   -- `S(k)`, R151
  | u8    -- `B(k)`, R152
  | flag  -- `F(k)`, R154
deriving DecidableEq, Repr

/-- What a descriptor does with the raw value (R153, R155 to R157): the scale product alone, the
scale product normalised by the unit flag in bit 0 of payload byte `flagAt`, or the oil transform in
place of a scale. -/
inductive Conv where
  | scaled
  | kpa (flagAt : Nat)
  | degc (flagAt : Nat)
  | oil
deriving DecidableEq, Repr

/-- One field descriptor of a routine (R111): offset, width and signedness, scale, conversion, and the
destination; a destination `none` is a field that is read and not stored (R154, R183, R187). -/
structure Descriptor where
  offset : Nat
  read : Read
  scale : ℚ
  conv : Conv
  dest : Option Slot
deriving DecidableEq, Repr

/-- P_FIELD_TABLE: the descriptors of every routine, in table order (R112). -/
structure FieldTable where
  pe1 : List Descriptor
  pe2 : List Descriptor
  pe3 : List Descriptor
  pe4 : List Descriptor
  pe5 : List Descriptor
  pe6 : List Descriptor
  pe7 : List Descriptor
  pe8 : List Descriptor
  pe9 : List Descriptor
  pe10 : List Descriptor
  pe11 : List Descriptor
  pe12 : List Descriptor
  pe13 : List Descriptor
  pe14 : List Descriptor
  pe15 : List Descriptor
  pe16 : List Descriptor
deriving DecidableEq, Repr

/-- P_VARIANT (R8). -/
inductive Variant where
  | extended | basic
deriving DecidableEq, Repr

/-- P_LAMBDA_SOURCE (R10). -/
inductive LambdaSource where
  | both | pe2Only | pe9Only
deriving DecidableEq, Repr

/-- P_OIL_SOURCE (R11): the frame and the byte offset of the raw word of the oil transform. -/
structure OilSource where
  frame : PE
  offset : Nat
deriving DecidableEq, Repr

/-- P_OIL_CAL (R11): the calibration triple of `raw / divisor * gain - offset`. -/
structure OilCal where
  divisor : ℚ
  gain : ℚ
  offset : ℚ
deriving DecidableEq, Repr

/-- The parameters of the block (R8 to R14, R112). P_EMIT_PERIOD is the host's and no rule depends on
it (R16), so it is no field. -/
structure Params where
  variant : Variant
  pe16Id : Option CanId
  lambdaSource : LambdaSource
  oilSource : OilSource
  oilCal : OilCal
  txHandshake : Bool
  rxGap : Bool
  framed : Bool
  fieldTable : FieldTable
deriving DecidableEq, Repr

/-- A FREE VALUE (assumption 4): the oil pressure that a calibration with divisor 0 gives, as a
function of the raw word, the gain and the offset. R157 divides by the divisor and the spec states no
result for a divisor of 0; nothing can be proved of this value. -/
opaque Config.oilByZeroDivisor (raw : Int) (gain offset : ℚ) : ℚ

/-- A FREE VALUE (assumption 13): what `rpm` holds when a descriptor of P_FIELD_TABLE gives it an
engineering value outside its domain, the naturals 0..65535 (R31). The spec states no result there and
nothing can be proved of this value; no row of the default table gives one. -/
opaque Config.rpmOutsideDomain (v : ℚ) : Word16

end Sys2Proof
end

