-- ==== Sys2Proof/Syntax.lean ====
section
/-! DEFINITION. The instructions: the nine commands of the command port (R100) and the sixteen AN400
messages that a frame's dispatch key selects (R105, R106), one constructor per row of
spec/opcode_table.json. -/

namespace Sys2Proof

/-- The two blocks, each on its own node with its own command port (R7, R100). -/
inductive Block where
  | tx | rx
deriving DecidableEq, Repr

/-- The eight payload bytes `data[0..7]` of a CAN frame (R70, R104). -/
structure Payload where
  d0 : Byte
  d1 : Byte
  d2 : Byte
  d3 : Byte
  d4 : Byte
  d5 : Byte
  d6 : Byte
  d7 : Byte
deriving DecidableEq, Repr

/-- One constructor per row of spec/opcode_table.json. RESET and HALT are accepted by both blocks, so
they carry the block they were sent to. The operand `len` of PKT_IN and FRAMED_IN is the length of
the byte list (R101). A row PEn is a raw CAN frame whose dispatch key is PEn's (R105); its operands
are the frame's DLC and payload. -/
inductive Instr where
  | reset (b : Block)
  | frameIn (ext : Bool) (id : CanId) (dlc : BitVec 4) (data : Payload)
  | frameInRegs (sidh sidl eid8 eid0 dlcreg : Byte) (d : Payload)
  | emit
  | txDone
  | halt (b : Block)
  | pktIn (bytes : List Byte)
  | framedEmit (ts : Word32)
  | framedIn (bytes : List Byte)
  | pe1 (dlc : BitVec 4) (data : Payload)
  | pe2 (dlc : BitVec 4) (data : Payload)
  | pe3 (dlc : BitVec 4) (data : Payload)
  | pe4 (dlc : BitVec 4) (data : Payload)
  | pe5 (dlc : BitVec 4) (data : Payload)
  | pe6 (dlc : BitVec 4) (data : Payload)
  | pe7 (dlc : BitVec 4) (data : Payload)
  | pe8 (dlc : BitVec 4) (data : Payload)
  | pe9 (dlc : BitVec 4) (data : Payload)
  | pe10 (dlc : BitVec 4) (data : Payload)
  | pe11 (dlc : BitVec 4) (data : Payload)
  | pe12 (dlc : BitVec 4) (data : Payload)
  | pe13 (dlc : BitVec 4) (data : Payload)
  | pe14 (dlc : BitVec 4) (data : Payload)
  | pe15 (dlc : BitVec 4) (data : Payload)
  | pe16 (dlc : BitVec 4) (data : Payload)
deriving DecidableEq, Repr

/-- The frame of message `r` with the given DLC and payload. -/
def Instr.ofKey (r : PE) (dlc : BitVec 4) (data : Payload) : Instr :=
  match r with
  | .pe1 => .pe1 dlc data
  | .pe2 => .pe2 dlc data
  | .pe3 => .pe3 dlc data
  | .pe4 => .pe4 dlc data
  | .pe5 => .pe5 dlc data
  | .pe6 => .pe6 dlc data
  | .pe7 => .pe7 dlc data
  | .pe8 => .pe8 dlc data
  | .pe9 => .pe9 dlc data
  | .pe10 => .pe10 dlc data
  | .pe11 => .pe11 dlc data
  | .pe12 => .pe12 dlc data
  | .pe13 => .pe13 dlc data
  | .pe14 => .pe14 dlc data
  | .pe15 => .pe15 dlc data
  | .pe16 => .pe16 dlc data

/-- The block that an instruction is addressed to (R100, the column "block"). -/
def Instr.block : Instr → Block
  | .reset b => b
  | .halt b => b
  | .pktIn _ => .rx
  | .framedIn _ => .rx
  | .frameIn .. => .tx
  | .frameInRegs .. => .tx
  | .emit => .tx
  | .txDone => .tx
  | .framedEmit _ => .tx
  | .pe1 .. => .tx
  | .pe2 .. => .tx
  | .pe3 .. => .tx
  | .pe4 .. => .tx
  | .pe5 .. => .tx
  | .pe6 .. => .tx
  | .pe7 .. => .tx
  | .pe8 .. => .tx
  | .pe9 .. => .tx
  | .pe10 .. => .tx
  | .pe11 .. => .tx
  | .pe12 .. => .tx
  | .pe13 .. => .tx
  | .pe14 .. => .tx
  | .pe15 .. => .tx
  | .pe16 .. => .tx

/-- Where an input word arrives: the command port of either block (R100), or the frame input of the
TX block, where a raw CAN frame led by its dispatch key arrives without a command code (the KEY rows
of the opcode table; assumption 2). -/
inductive Port where
  | txCmd | rxCmd | frame
deriving DecidableEq, Repr

/-- The block behind a port. -/
def Port.block : Port → Block
  | .txCmd => .tx
  | .rxCmd => .rx
  | .frame => .tx

/-- One input word as the host presents it: the port, and the record as bytes (assumption 1). -/
structure Presented where
  port : Port
  bytes : List Byte
deriving DecidableEq, Repr

end Sys2Proof
end

