-- ==== Sys2Proof/Machine/FieldTable.lean ====
section
/-! DEFINITION. The AN400 routines as field tables (41_an400_routines.md): the default value of
P_FIELD_TABLE (R182 to R197), the default parameters (R8 to R14), and the rows a routine really runs
under the parameters (R198 to R200) with its minimum DLC (R158). -/

namespace Sys2Proof

/-- A field of the basic snapshot (R31). -/
def Field.isBasic (f : Field) : Bool :=
  match f with
  | .tpsPct | .fotMs | .ignDeg | .baroKpa | .mapKpa | .lambda | .lambda2 | .lambdaTarget => true
  | .oilPsi | .battV | .coolantC | .airC | .wsFlHz | .wsFrHz | .wsBlHz | .wsBrHz => true
  | _ => false

/-- A field whose domain R31 gives as `Rat, >= 0`. -/
def Field.isNonneg (f : Field) : Bool :=
  match f with
  | .baroKpa | .mapKpa | .lambda | .lambda2 | .lambdaTarget => true
  | .wsFlHz | .wsFrHz | .wsBlHz | .wsBrHz => true
  | _ => false

namespace Machine

/-- A row `U × s` of a table (R150, R153). -/
def rowU (k : Nat) (scale : ℚ) (f : Field) : Descriptor := ⟨k, .u16, scale, .scaled, some (.val f)⟩

/-- A row `S × s` of a table (R151, R153). -/
def rowS (k : Nat) (scale : ℚ) (f : Field) : Descriptor := ⟨k, .s16, scale, .scaled, some (.val f)⟩

/-- A row `B × s` of a table (R152, R153). -/
def rowB (k : Nat) (scale : ℚ) (f : Field) : Descriptor := ⟨k, .u8, scale, .scaled, some (.val f)⟩

/-- A row `U × s` with `kpa(v, F(flagAt))` (R155, R183). -/
def rowKpa (k : Nat) (scale : ℚ) (flagAt : Nat) (f : Field) : Descriptor :=
  ⟨k, .u16, scale, .kpa flagAt, some (.val f)⟩

/-- A row `S × s` with `degc(v, F(flagAt))` (R156, R187). -/
def rowDegc (k : Nat) (scale : ℚ) (flagAt : Nat) (f : Field) : Descriptor :=
  ⟨k, .s16, scale, .degc flagAt, some (.val f)⟩

/-- A unit-flag row `(k, F, -, -, not stored)` (R183, R187). -/
def rowFlag (k : Nat) : Descriptor := ⟨k, .flag, 1, .scaled, none⟩

/-- The oil row `(k, S, -, oil(w), oil_psi)` (R184, R199). -/
def rowOil (k : Nat) : Descriptor := ⟨k, .s16, 1, .oil, some (.val .oilPsi)⟩

/-- The default value of P_FIELD_TABLE: the tables of R182 to R197, row for row. -/
def defaultFieldTable : FieldTable where
  pe1 := [⟨0, .u16, 1, .scaled, some .rpm⟩, rowS 2 (1 / 10) .tpsPct, rowS 4 (1 / 10) .fotMs, rowS 6 (1 / 10) .ignDeg]
  pe2 := [rowKpa 0 (1 / 100) 6 .baroKpa, rowKpa 2 (1 / 100) 6 .mapKpa, rowU 4 (1 / 100) .lambda,
          rowFlag 6]
  pe3 := [rowS 0 (1 / 1000) .ai1V, rowOil 0, rowS 2 (1 / 1000) .ai2V, rowS 4 (1 / 1000) .ai3V,
          rowS 6 (1 / 1000) .ai4V]
  pe4 := [rowS 0 (1 / 1000) .ai5V, rowS 2 (1 / 1000) .ai6V, rowS 4 (1 / 1000) .ai7V,
          rowS 6 (1 / 1000) .ai8V]
  pe5 := [rowU 0 (1 / 5) .wsFlHz, rowU 2 (1 / 5) .wsFrHz, rowU 4 (1 / 5) .wsBlHz,
          rowU 6 (1 / 5) .wsBrHz]
  pe6 := [rowS 0 (1 / 100) .battV, rowDegc 2 (1 / 10) 6 .airC, rowDegc 4 (1 / 10) 6 .coolantC,
          rowFlag 6]
  pe7 := [rowS 0 (1 / 10) .therm5Temp, rowS 2 (1 / 10) .therm7Temp]
  pe8 := [rowS 0 1 .rpmRate, rowS 2 1 .tpsRate, rowS 4 1 .mapRate, rowS 6 (1 / 10) .mafLoadRate]
  pe9 := [rowU 0 (1 / 100) .lambda, rowU 2 (1 / 100) .lambda2, rowU 4 (1 / 100) .lambdaTarget]
  pe10 := [rowB 0 (1 / 2) .pwmDutyPct1, rowB 1 (1 / 2) .pwmDutyPct2, rowB 2 (1 / 2) .pwmDutyPct3,
           rowB 3 (1 / 2) .pwmDutyPct4, rowB 4 (1 / 2) .pwmDutyPct5, rowB 5 (1 / 2) .pwmDutyPct6,
           rowB 6 (1 / 2) .pwmDutyPct7, rowB 7 (1 / 2) .pwmDutyPct8]
  pe11 := [rowS 0 (1 / 10) .slipPct, rowS 2 (1 / 10) .drivenWheelRoc,
           rowS 4 (1 / 10) .tractionDesiredPct]
  pe12 := [rowS 0 (1 / 10) .drivenAvgWs, rowS 2 (1 / 10) .nondrivenAvgWs, rowS 4 (1 / 10) .ignCompDeg,
           rowS 6 (1 / 10) .ignCutPct]
  pe13 := [rowS 0 (1 / 10) .drivenWs1, rowS 2 (1 / 10) .drivenWs2, rowS 4 (1 / 10) .nondrivenWs1,
           rowS 6 (1 / 10) .nondrivenWs2]
  pe14 := [rowS 0 (1 / 10) .fuelCompAccelPct, rowS 2 (1 / 10) .fuelCompStartPct,
           rowS 4 (1 / 10) .fuelCompAirPct, rowS 6 (1 / 10) .fuelCompCoolantPct]
  pe15 := [rowS 0 (1 / 10) .fuelCompBaroPct, rowS 2 (1 / 10) .fuelCompMapPct]
  pe16 := [rowS 0 (1 / 10) .ignCompAirDeg, rowS 2 (1 / 10) .ignCompCoolantDeg,
           rowS 4 (1 / 10) .ignCompBaroDeg, rowS 6 (1 / 10) .ignCompMapDeg]

/-- The default of P_OIL_SOURCE (R11). -/
def defaultOilSource : OilSource := ⟨.pe3, 0⟩

/-- The default of P_OIL_CAL (R11), "must be preserved exactly". -/
def defaultOilCal : OilCal := ⟨1000, 25, 25 / 2⟩

/-- The parameters at their defaults (R8 to R14, R112). -/
def defaultParams : Params where
  variant := .extended
  pe16Id := some 0x0CFFD048
  lambdaSource := .both
  oilSource := defaultOilSource
  oilCal := defaultOilCal
  txHandshake := true
  rxGap := true
  framed := false
  fieldTable := defaultFieldTable

/-- The table P_FIELD_TABLE gives for a message (R112). -/
def tableOf (t : FieldTable) : PE → List Descriptor
  | .pe1 => t.pe1
  | .pe2 => t.pe2
  | .pe3 => t.pe3
  | .pe4 => t.pe4
  | .pe5 => t.pe5
  | .pe6 => t.pe6
  | .pe7 => t.pe7
  | .pe8 => t.pe8
  | .pe9 => t.pe9
  | .pe10 => t.pe10
  | .pe11 => t.pe11
  | .pe12 => t.pe12
  | .pe13 => t.pe13
  | .pe14 => t.pe14
  | .pe15 => t.pe15
  | .pe16 => t.pe16

/-- A row that carries the oil transform. -/
def isOilRow (d : Descriptor) : Bool := d.conv = .oil

/-- R199: with P_OIL_SOURCE at its default the tables stand as they are; else PE3 loses its oil row
and the named message gains one, as its last row. -/
def withOilRow (c : Params) (r : PE) (rows : List Descriptor) : List Descriptor :=
  if c.oilSource = defaultOilSource then rows
  else
    (if r = .pe3 then rows.filter (fun d => !isOilRow d) else rows)
      ++ (if c.oilSource.frame = r then [rowOil c.oilSource.offset] else [])

/-- A row that writes a basic field (R31, R200), or writes nothing. -/
def isBasicRow (d : Descriptor) : Bool :=
  match d.dest with
  | none => true
  | some .rpm => true
  | some (.val f) => f.isBasic

/-- A row that writes `oil_psi`. -/
def isOilPsiRow (d : Descriptor) : Bool := d.dest = some (.val .oilPsi)

/-- A row that routine `r` has in the BASIC variant: the basic fields only, and of PE3 "oil only" (R180, R200). -/
def inBasic (r : PE) (d : Descriptor) : Bool := isBasicRow d && (r != .pe3 || isOilPsiRow d)

/-- The rows routine `r` reads: the table's, under P_OIL_SOURCE (R199) and P_VARIANT (R200). -/
def rowsOf (c : Params) (r : PE) : List Descriptor :=
  let rows := withOilRow c r (tableOf c.fieldTable r)
  match c.variant with
  | .extended => rows
  | .basic => rows.filter (inBasic r)

/-- One plus the highest payload byte a row reads (R158): a 16-bit read at `k` reads `k` and `k + 1`,
an 8-bit read or a flag at `k` reads `k`. -/
def rowEnd (d : Descriptor) : Nat :=
  let field := match d.read with
    | .u16 => d.offset + 2
    | .s16 => d.offset + 2
    | .u8 => d.offset + 1
    | .flag => d.offset + 1
  match d.conv with
  | .scaled => field
  | .kpa flagAt => max field (flagAt + 1)
  | .degc flagAt => max field (flagAt + 1)
  | .oil => field

/-- The MinDlc that R180 and R200 give PE3 in the BASIC variant, whatever it reads: 2. Where P_OIL_SOURCE names
another message PE3 reads nothing, and this alone is its MinDlc (assumption 12). -/
def leastDlc (c : Params) (r : PE) : Nat :=
  match c.variant with
  | .extended => 0
  | .basic => if r = .pe3 then 2 else 0

/-- MinDlc (R158, R200, R201), of the rows before the lambda policy, which never changes it (R198). -/
def minDlc (c : Params) (r : PE) : Nat :=
  (rowsOf c r).foldl (fun m d => max m (rowEnd d)) (leastDlc c r)

/-- P_LAMBDA_SOURCE names the frames that write `lambda` (R10, R198). -/
def mayWriteLambda (p : LambdaSource) (r : PE) : Bool :=
  match p with
  | .both => true
  | .pe2Only => r = .pe2
  | .pe9Only => r = .pe9

/-- A row that writes `lambda`. -/
def isLambdaRow (d : Descriptor) : Bool := d.dest = some (.val .lambda)

/-- The rows of routine `r` that may write: those it reads, less `lambda` where the policy says so (R198). -/
def writingRowsOf (c : Params) (r : PE) : List Descriptor :=
  (rowsOf c r).filter (fun d => !isLambdaRow d || mayWriteLambda c.lambdaSource r)

end Machine
end Sys2Proof
end

