-- ==== Sys2Proof/Machine/KeyTable.lean ====
section
/-! DEFINITION. The dispatch table (R105, R106, R180): which messages the configuration has, their
arbitration IDs, and the message an ID selects. -/

namespace Sys2Proof.Machine

/-- The arbitration ID of each message (R180); PE16's is P_PE16_ID (R9). -/
def idOf (c : Params) : PE → Option CanId
  | .pe1 => some 0x0CFFF048
  | .pe2 => some 0x0CFFF148
  | .pe3 => some 0x0CFFF248
  | .pe4 => some 0x0CFFF348
  | .pe5 => some 0x0CFFF448
  | .pe6 => some 0x0CFFF548
  | .pe7 => some 0x0CFFF648
  | .pe8 => some 0x0CFFF748
  | .pe9 => some 0x0CFFF848
  | .pe10 => some 0x0CFFF948
  | .pe11 => some 0x0CFFFA48
  | .pe12 => some 0x0CFFFB48
  | .pe13 => some 0x0CFFFC48
  | .pe14 => some 0x0CFFFD48
  | .pe15 => some 0x0CFFFE48
  | .pe16 => c.pe16Id

/-- The messages of a variant: all, or the six of R200. -/
def inVariant (v : Variant) (r : PE) : Bool :=
  match v, r with
  | .extended, _ => true
  | .basic, .pe1 => true
  | .basic, .pe2 => true
  | .basic, .pe3 => true
  | .basic, .pe5 => true
  | .basic, .pe6 => true
  | .basic, .pe9 => true
  | .basic, _ => false

/-- The row of message `r` is in the active table (R106). -/
def isActive (c : Params) (r : PE) : Bool :=
  inVariant c.variant r && (idOf c r).isSome

/-- `Table(id)` (R180): the active message whose ID equals `id` in all 29 bits. Where P_PE16_ID repeats
an ID of the range, the earlier row is found (assumption 5). -/
def lookup (c : Params) (id : CanId) : Option PE :=
  PE.all.find? (fun r => isActive c r && idOf c r == some id)

/-- The key of message `r` selects `r`. -/
def selects (c : Params) (r : PE) : Bool :=
  match idOf c r with
  | some id => lookup c id == some r
  | none => false

/-- The dispatch key `K = (ext << 29) | id` (R105). -/
def dispatchKey (ext : Bool) (id : CanId) : BitVec 30 :=
  BitVec.ofBool ext ++ id

end Sys2Proof.Machine
end

