-- ==== Sys2Proof/WellFormed.lean ====
section
/-! DEFINITION. Which instructions and parameters are well formed. The operands of an instruction are
bounded by their types (R101); what remains is whether a message's row exists under the parameters
(R106, R125), and whether the parameters themselves are ones the spec gives a meaning to. -/

namespace Sys2Proof

/-- A message that an instruction term names, if it is a frame of the KEY format. -/
def Instr.key? : Instr → Option PE
  | .reset _ => none
  | .frameIn .. => none
  | .frameInRegs .. => none
  | .emit => none
  | .txDone => none
  | .halt _ => none
  | .pktIn _ => none
  | .framedEmit _ => none
  | .framedIn _ => none
  | .pe1 .. => some .pe1
  | .pe2 .. => some .pe2
  | .pe3 .. => some .pe3
  | .pe4 .. => some .pe4
  | .pe5 .. => some .pe5
  | .pe6 .. => some .pe6
  | .pe7 .. => some .pe7
  | .pe8 .. => some .pe8
  | .pe9 .. => some .pe9
  | .pe10 .. => some .pe10
  | .pe11 .. => some .pe11
  | .pe12 .. => some .pe12
  | .pe13 .. => some .pe13
  | .pe14 .. => some .pe14
  | .pe15 .. => some .pe15
  | .pe16 .. => some .pe16

/-- An instruction is well formed when, if it is a frame of message PEn, PEn's key selects PEn under
the parameters (R105, R106). -/
def WellFormed (c : Params) (i : Instr) : Bool :=
  match i.key? with
  | none => true
  | some r => Machine.selects c r

/-- No two rows of the active table carry one ID (R180): P_PE16_ID repeats none of the fifteen others
where PE16's row is there (assumption 5). -/
def Params.distinctIds (c : Params) : Bool :=
  PE.all.all fun r => PE.all.all fun r' =>
    !(Machine.isActive c r && Machine.isActive c r' && Machine.idOf c r == Machine.idOf c r') || r == r'

/-- Parameters the spec gives a meaning to: the active table repeats no ID (R180), the oil divisor is
not 0 (R157), and the oil source names a 16-bit field of the payload (R11). -/
def Params.legal (c : Params) : Bool :=
  c.distinctIds
    && decide (c.oilCal.divisor ≠ 0)
    && decide (c.oilSource.offset ≤ 6)

end Sys2Proof
end

