-- ==== Sys2Proof/Decode.lean ====
section
/-! DEFINITION. Decoding of a presented record to an instruction, total on any bytes, and the encoder
(30_encoding.md). The spec gives the fields of a record and their widths (R100, R101, R104); the byte
layout of the record is the model's (assumption 1): the command code in bits 3:0 of the first byte, then
the operands in the spec's order, multi-byte operands low byte first, the frame's extended flag and ID as
its dispatch key (R105). Container bits above a field are not read. -/

namespace Sys2Proof

/-- Why a record decodes to no instruction. -/
inductive Reject where
  /-- The command code is 0x9..0xF (R102). -/
  | reservedCode (code : Nat)
  /-- The code is of a command that the other block accepts (R102, R323). -/
  | misdirected (code : Nat)
  /-- The record does not have the length its code asks for (assumption 1). -/
  | malformed
deriving DecidableEq, Repr

/-- Four bytes, low byte first, as a 32-bit word (R22). -/
def join32 (a b c d : Byte) : Word32 := d ++ c ++ b ++ a

/-- The four bytes of a 32-bit word, low byte first (R22). -/
def split32 (w : Word32) : List Byte :=
  [w.extractLsb' 0 8, w.extractLsb' 8 8, w.extractLsb' 16 8, w.extractLsb' 24 8]

/-- The extended flag of a dispatch key: bit 29 (R105). -/
def keyExt (k : BitVec 30) : Bool := k.getLsbD 29

/-- The ID of a dispatch key: bits 28:0 (R105). -/
def keyId (k : BitVec 30) : CanId := k.setWidth 29

/-- The frame operands after a command code or alone: key, DLC, payload (R100, R104). -/
def decodeFrame (build : BitVec 30 → BitVec 4 → Payload → Instr) : List Byte → Except Reject Instr
  | [k0, k1, k2, k3, dlc, d0, d1, d2, d3, d4, d5, d6, d7] =>
    .ok (build ((join32 k0 k1 k2 k3).setWidth 30) (dlc.setWidth 4) ⟨d0, d1, d2, d3, d4, d5, d6, d7⟩)
  | _ => .error .malformed

/-- The thirteen operand bytes of FRAME_IN_REGS, in address order (R109). -/
def decodeRegs : List Byte → Except Reject Instr
  | [sidh, sidl, eid8, eid0, dlcreg, d0, d1, d2, d3, d4, d5, d6, d7] =>
    .ok (.frameInRegs sidh sidl eid8 eid0 dlcreg ⟨d0, d1, d2, d3, d4, d5, d6, d7⟩)
  | _ => .error .malformed

/-- The timestamp operand of FRAMED_EMIT (R100). -/
def decodeStamp : List Byte → Except Reject Instr
  | [a, b, c, d] => .ok (.framedEmit (join32 a b c d))
  | _ => .error .malformed

/-- A command with no operands. -/
def decodeBare (i : Instr) : List Byte → Except Reject Instr
  | [] => .ok i
  | _ => .error .malformed

/-- A command that one block alone accepts (R100, R102). -/
def acceptedBy (owner sentTo : Block) (code : Nat) (r : Except Reject Instr) : Except Reject Instr :=
  if owner = sentTo then r else .error (.misdirected code)

/-- A command word on the port of block `b` (R100, R102). -/
def decodeCommand (b : Block) : List Byte → Except Reject Instr
  | [] => .error .malformed
  | head :: rest =>
    match (head.setWidth 4).toNat with
    | 0 => decodeBare (.reset b) rest
    | 1 => acceptedBy .tx b 1 (decodeFrame (fun k dlc data => .frameIn (keyExt k) (keyId k) dlc data) rest)
    | 2 => acceptedBy .tx b 2 (decodeRegs rest)
    | 3 => acceptedBy .tx b 3 (decodeBare .emit rest)
    | 4 => acceptedBy .tx b 4 (decodeBare .txDone rest)
    | 5 => decodeBare (.halt b) rest
    | 6 => acceptedBy .rx b 6 (.ok (.pktIn rest))
    | 7 => acceptedBy .tx b 7 (decodeStamp rest)
    | 8 => acceptedBy .rx b 8 (.ok (.framedIn rest))
    | code => .error (.reservedCode code)

/-- The message a dispatch key selects, or a frame that selects none (R105, R107). -/
def ofDispatchKey (c : Params) (k : BitVec 30) (dlc : BitVec 4) (data : Payload) : Instr :=
  if keyExt k then
    match Machine.lookup c (keyId k) with
    | some r => .ofKey r dlc data
    | none => .frameIn true (keyId k) dlc data
  else .frameIn false (keyId k) dlc data

/-- The instruction a presented record stands for. -/
def decode (c : Params) (p : Presented) : Except Reject Instr :=
  match p.port with
  | .txCmd => decodeCommand .tx p.bytes
  | .rxCmd => decodeCommand .rx p.bytes
  | .frame => decodeFrame (ofDispatchKey c) p.bytes

/-- The eight payload bytes in index order. -/
def Payload.toList (d : Payload) : List Byte := [d.d0, d.d1, d.d2, d.d3, d.d4, d.d5, d.d6, d.d7]

/-- The operand bytes of a frame: key, DLC, payload. -/
def encodeFrame (k : BitVec 30) (dlc : BitVec 4) (data : Payload) : List Byte :=
  split32 (k.setWidth 32) ++ [dlc.setWidth 8] ++ data.toList

/-- The command port of a block. -/
def Block.port : Block → Port
  | .tx => .txCmd
  | .rx => .rxCmd

/-- A frame of message `r` on the frame input, led by its key (R105). -/
def encodeKey (c : Params) (r : PE) (dlc : BitVec 4) (data : Payload) : Presented :=
  ⟨.frame, encodeFrame (Machine.dispatchKey true ((Machine.idOf c r).getD 0)) dlc data⟩

/-- The record of a well-formed instruction. -/
def encode (c : Params) : Instr → Presented
  | .reset b => ⟨b.port, [0x00]⟩
  | .frameIn ext id dlc data => ⟨.txCmd, 0x01 :: encodeFrame (Machine.dispatchKey ext id) dlc data⟩
  | .frameInRegs sidh sidl eid8 eid0 dlcreg d =>
    ⟨.txCmd, 0x02 :: sidh :: sidl :: eid8 :: eid0 :: dlcreg :: d.toList⟩
  | .emit => ⟨.txCmd, [0x03]⟩
  | .txDone => ⟨.txCmd, [0x04]⟩
  | .halt b => ⟨b.port, [0x05]⟩
  | .pktIn bytes => ⟨.rxCmd, 0x06 :: bytes⟩
  | .framedEmit ts => ⟨.txCmd, 0x07 :: split32 ts⟩
  | .framedIn bytes => ⟨.rxCmd, 0x08 :: bytes⟩
  | .pe1 dlc data => encodeKey c .pe1 dlc data
  | .pe2 dlc data => encodeKey c .pe2 dlc data
  | .pe3 dlc data => encodeKey c .pe3 dlc data
  | .pe4 dlc data => encodeKey c .pe4 dlc data
  | .pe5 dlc data => encodeKey c .pe5 dlc data
  | .pe6 dlc data => encodeKey c .pe6 dlc data
  | .pe7 dlc data => encodeKey c .pe7 dlc data
  | .pe8 dlc data => encodeKey c .pe8 dlc data
  | .pe9 dlc data => encodeKey c .pe9 dlc data
  | .pe10 dlc data => encodeKey c .pe10 dlc data
  | .pe11 dlc data => encodeKey c .pe11 dlc data
  | .pe12 dlc data => encodeKey c .pe12 dlc data
  | .pe13 dlc data => encodeKey c .pe13 dlc data
  | .pe14 dlc data => encodeKey c .pe14 dlc data
  | .pe15 dlc data => encodeKey c .pe15 dlc data
  | .pe16 dlc data => encodeKey c .pe16 dlc data

/-- The low `n` bytes of a number, low byte first. -/
def bytesOfNat : Nat → Nat → List Byte
  | 0, _ => []
  | n + 1, w => BitVec.ofNat 8 w :: bytesOfNat n (w / 256)

/-- How many operand bytes follow a command code in a record: those of its fixed operands, or, for a
datagram, a datagram of the length the command accepts (R264, R293). -/
def operandBytes (code : Nat) : Nat :=
  match code with
  | 1 => 13
  | 2 => 13
  | 6 => 22
  | 7 => 4
  | 8 => 38
  | _ => 0

/-- The command port of a block that accepts a code (R100). DESIGN CHOICE (assumption 3): a bare word of the
opcode table does not say its block, and both blocks accept RESET (0x0) and HALT (0x5); the model puts these on
the TX block's port, as it does reserved codes. -/
def portOfCode (code : Nat) : Port :=
  match code with
  | 6 => .rxCmd
  | 8 => .rxCmd
  | _ => .txCmd

/-- A word of the opcode table as a record: a word of up to 16 bits is a CMD row's, on a port that
accepts it; a longer one is a KEY row's, on the frame input. Every operand byte beyond the word is 0. -/
def tableRecord (nbits w : Nat) : Presented :=
  let given := bytesOfNat ((nbits + 7) / 8) w
  if nbits ≤ 16 then
    ⟨portOfCode (w % 16), given ++ List.replicate (1 + operandBytes (w % 16) - given.length) 0⟩
  else ⟨.frame, given ++ List.replicate (13 - given.length) 0⟩

/-- The instruction the decoder reads from a word of the opcode table, under the default parameters. -/
def decodeTableWord (nbits w : Nat) : Option Instr :=
  match decode Machine.defaultParams (tableRecord nbits w) with
  | .ok i => some i
  | .error _ => none

end Sys2Proof
end

