-- ==== Sys2Proof/Machine/State.lean ====
section
/-! DEFINITION. The architectural state of 10_state.md: the registers of the TX block (R30 to R37) and
of the RX block (R39 to R42), the parameters the block is built with (R47), and the model's own record
of the commands not yet presented, of the last command's outputs (R38, R43) and of the packets handed
to the link transport (R464). Also the reasons a step can stop, and the state after reset (R450). -/

namespace Sys2Proof.Machine

/-- The telemetry snapshot (R30 to R32): `rpm`, and the rational fields at the places of `Field.idx`. -/
structure Snapshot where
  rpm : Word16
  vals : Vector ℚ Field.count
deriving DecidableEq, Repr

/-- The registers of the TX block (R30 to R37). -/
structure Tx where
  snap : Snapshot
  hraf : Bool
  seq : Word16
  seq8 : Byte
  txBusy : Bool
  halted : Bool
deriving DecidableEq, Repr

/-- The RX reconstructed snapshot (R39). -/
structure RxSnapshot where
  seq : Word16
  rpm : Word16
  mapKpa : ℚ
  tpsPct : ℚ
  oilPsi : ℚ
  coolantC : ℚ
  lambda : ℚ
  battV : ℚ
  wsFlHz : ℚ
  wsFrHz : ℚ
  wsBlHz : ℚ
  wsBrHz : ℚ
deriving DecidableEq, Repr

/-- The fields of a framed datagram as the RX block holds them (R42, R124). -/
structure FramedSnapshot where
  seq8 : Byte
  tsMs : Word32
  rpm : Word16
  tpsPct : ℚ
  fotMs : ℚ
  ignDeg : ℚ
  mapKpa : ℚ
  baroKpa : ℚ
  lambda : ℚ
  oilPsi : ℚ
  battV : ℚ
  coolantC : ℚ
  airC : ℚ
  wsFlHz : ℚ
  wsFrHz : ℚ
  wsBlHz : ℚ
  wsBrHz : ℚ
deriving DecidableEq, Repr

/-- The registers of the RX block (R39 to R42), with its own `halted` (R320, R321). The names under
`framed` are the `rxf_` registers: `fsnap` the fields, `fvalid`, `fhaveLast`, `flastSeq8` the flags and
the last sequence number. -/
structure Rx where
  snap : RxSnapshot
  valid : Bool
  haveLast : Bool
  lastSeq : Word16
  fsnap : FramedSnapshot
  fvalid : Bool
  fhaveLast : Bool
  flastSeq8 : Byte
  halted : Bool
deriving DecidableEq, Repr

/-- The outcome codes of a completed command (R401), in the order of their numbers 0 to 8. -/
inductive Code where
  | ok | ignStandard | ignUnknownId | ignShortDlc | suppressed
  | dropLength | dropPreamble | dropVersion | dropDeclaredLength
deriving DecidableEq, Repr

/-- What the last presented command gave back: nothing yet, its outcome code, or HOLD, which is no code
(R401). -/
inductive Answer where
  | idle
  | done (c : Code)
  | hold
deriving DecidableEq, Repr

/-- The outputs of one command, which are not state of the block (R38, R43): the answer, the packet
handed to the transport if there is one, and the gap if one is reported. -/
structure Output where
  answer : Answer
  packet : Option (List Byte)
  gap : Option Nat
deriving DecidableEq, Repr

/-- The state of the model: the parameters, the two blocks, and three fields of the model's own: the
input words the host has yet to present (assumption 3), the outputs of the last one, and every packet
emitted so far, oldest first. -/
structure State where
  cfg : Params
  tx : Tx
  rx : Rx
  port : List Presented
  out : Output
  emitted : List (List Byte)
deriving DecidableEq, Repr

/-- The reasons a step stops with a fault. -/
inductive Fault where
  /-- STUCK (R322): a command other than RESET was presented to a block that is halted. Raised by every
  instruction but RESET, and by a record that decodes to nothing. Safe: the spec gives such a command no
  step. -/
  | stuck (b : Block)
deriving DecidableEq, Repr

/-- The reasons a step is refused. -/
inductive Refusal where
  /-- The instruction has no meaning in the model yet. Raised by exec alone. Safe. -/
  | notModelled (mnemonic : String)
  /-- REFUSED (R102, R323): a command code in 0x9..0xF. Raised by step, for such a record. Safe. -/
  | reservedCode (code : Nat)
  /-- REFUSED (R102, R323): a command on the port of the block that does not accept it. Raised by step,
  for such a record. Safe. -/
  | misdirected (code : Nat)
  /-- REFUSED (R102, R290): a framed command where P_FRAMED is false. Raised by FRAMED_EMIT and
  FRAMED_IN. Safe. -/
  | framedAbsent
  /-- The record does not have the length its command code asks for (assumption 1). Raised by step, for
  such a record. Safe: no command of the spec is such a record. -/
  | malformedRecord
deriving DecidableEq, Repr

/-- The snapshot with every field 0 (R31, R32). -/
def Snapshot.zero : Snapshot := ⟨0, Vector.replicate Field.count 0⟩

/-- The TX block after RESET (R320, R450). -/
def Tx.zero : Tx where
  snap := Snapshot.zero
  hraf := false
  seq := 0
  seq8 := 0
  txBusy := false
  halted := false

/-- The RX snapshot with every field 0 (R39). -/
def RxSnapshot.zero : RxSnapshot := ⟨0, 0, 0, 0, 0, 0, 0, 0, 0, 0, 0, 0⟩

/-- The framed RX fields, every one 0 (R42). -/
def FramedSnapshot.zero : FramedSnapshot := ⟨0, 0, 0, 0, 0, 0, 0, 0, 0, 0, 0, 0, 0, 0, 0, 0, 0⟩

/-- The RX block after RESET (R320, R450). -/
def Rx.zero : Rx where
  snap := RxSnapshot.zero
  valid := false
  haveLast := false
  lastSeq := 0
  fsnap := FramedSnapshot.zero
  fvalid := false
  fhaveLast := false
  flastSeq8 := 0
  halted := false

/-- No outputs yet. -/
def Output.none : Output := ⟨.idle, Option.none, Option.none⟩

/-- Both blocks right after their RESET (R450), built with the default parameters (R8 to R14), with no
command presented and nothing emitted. -/
def State.reset : State where
  cfg := defaultParams
  tx := Tx.zero
  rx := Rx.zero
  port := []
  out := Output.none
  emitted := []

end Sys2Proof.Machine
end

