-- ==== Sys2Proof/Machine/Operands.lean ====
section
/-! DEFINITION. Operand forms: the reads of a CAN payload (R150 to R154), the conversions they select
(R155 to R157), the routine a table gives (R145), and the number formats of the packets (R20 to R25). -/

namespace Sys2Proof.Machine

/-- `u16(lo, hi) = hi × 256 + lo` (R20). -/
def u16 (lo hi : Byte) : Word16 := BitVec.ofNat 16 (hi.toNat * 256 + lo.toNat)

/-- `s16(v)`: `v` up to 32767, else `v - 65536` (R21). -/
def s16 (v : Word16) : Int :=
  if v.toNat ≤ 32767 then (v.toNat : Int) else (v.toNat : Int) - 65536

/-- `data[k]` (R18); there is no byte past 7, and no accepted frame reads one (R142). -/
def byteAt (d : Payload) (k : Nat) : Byte :=
  match k with
  | 0 => d.d0
  | 1 => d.d1
  | 2 => d.d2
  | 3 => d.d3
  | 4 => d.d4
  | 5 => d.d5
  | 6 => d.d6
  | 7 => d.d7
  | _ => 0

/-- `U(k)` (R150). -/
def fieldU (d : Payload) (k : Nat) : Word16 := u16 (byteAt d k) (byteAt d (k + 1))

/-- `S(k)` (R151). -/
def fieldS (d : Payload) (k : Nat) : Int := s16 (fieldU d k)

/-- `B(k)` (R152). -/
def fieldB (d : Payload) (k : Nat) : Nat := (byteAt d k).toNat

/-- `F(k)`, bit 0 of byte `k` (R154). -/
def flagBit (d : Payload) (k : Nat) : Bool := (byteAt d k).getLsbD 0

/-- The raw value of a field (R111); a flag is the natural 0 or 1. -/
def rawOf (d : Payload) (k : Nat) : Read → Int
  | .u16 => ((fieldU d k).toNat : Int)
  | .s16 => fieldS d k
  | .u8 => (fieldB d k : Int)
  | .flag => ((flagBit d k).toNat : Int)

/-- `kpa(v, f)` (R155): kept when the flag is 1, else psi times 6.89476 (R15). -/
def kpa (v : ℚ) (f : Bool) : ℚ := if f then v else v * (689476 / 100000)

/-- `degc(v, f)` (R156): kept when the flag is 1, else `(v - 32) × 5 / 9`. -/
def degc (v : ℚ) (f : Bool) : ℚ := if f then v else (v - 32) * 5 / 9

/-- `oil(w) = w / d × g - o` (R157); a divisor of 0 gives a free value (assumption 4). -/
def oil (cal : OilCal) (w : Int) : ℚ :=
  if cal.divisor = 0 then Config.oilByZeroDivisor w cal.gain cal.offset
  else (w : ℚ) / cal.divisor * cal.gain - cal.offset

/-- The engineering value of a raw value at scale `s` (R153) after its conversion (R155 to R157).
DESIGN CHOICE (assumption 13): R157 reads the word of P_OIL_SOURCE signed, and R111 gives each descriptor its own
offset, width and signedness; where an oil row of a custom P_FIELD_TABLE has another read or offset, the
transform is applied to the row's own raw value. -/
def convert (cal : OilCal) (d : Payload) (raw : Int) (s : ℚ) : Conv → ℚ
  | .scaled => (raw : ℚ) * s
  | .kpa flagAt => kpa ((raw : ℚ) * s) (flagBit d flagAt)
  | .degc flagAt => degc ((raw : ℚ) * s) (flagBit d flagAt)
  | .oil => oil cal raw

/-- One write of a routine to the snapshot (R140). -/
inductive Write where
  | rpm (v : Word16)
  | val (f : Field) (v : ℚ)
deriving DecidableEq, Repr

/-- An engineering value as `rpm` holds it: the natural that it is, in 0..65535 (R31); any other value is
a free one (assumption 13). -/
def toRpm (v : ℚ) : Word16 :=
  if v.den = 1 ∧ 0 ≤ v.num ∧ v.num ≤ 65535 then BitVec.ofInt 16 v.num else Config.rpmOutsideDomain v

/-- The engineering value of one row's field (R111). -/
def valueOf (cal : OilCal) (d : Payload) (row : Descriptor) : ℚ :=
  convert cal d (rawOf d row.offset row.read) row.scale row.conv

/-- The write of one row, if it stores its field (R111). DESIGN CHOICE (assumption 13): where a row of a
custom P_FIELD_TABLE gives a field of domain `Rat, >= 0` (R31) a negative value, the spec states no result that
fits the domain, and the model stores the value of R153 as R140 writes it. -/
def evalRow (cal : OilCal) (d : Payload) (row : Descriptor) : Option Write :=
  match row.dest with
  | none => none
  | some .rpm => some (.rpm (toRpm (valueOf cal d row)))
  | some (.val f) => some (.val f (valueOf cal d row))

/-- `Routine_r(data)` (R140, R145): the writes of a routine, in table order, from the payload alone. -/
def routine (c : Params) (r : PE) (d : Payload) : List Write :=
  (writingRowsOf c r).filterMap (evalRow c.oilCal d)

/-- The DLC clamp, `min(dlc, 8)` (R141). -/
def clampDlc (dlc : BitVec 4) : Nat := min dlc.toNat 8

/-- The zero fill (R142): bytes at index `dlc` and above become 0. -/
def zeroFill (dlc : Nat) (d : Payload) : Payload where
  d0 := if 0 < dlc then d.d0 else 0
  d1 := if 1 < dlc then d.d1 else 0
  d2 := if 2 < dlc then d.d2 else 0
  d3 := if 3 < dlc then d.d3 else 0
  d4 := if 4 < dlc then d.d4 else 0
  d5 := if 5 < dlc then d.d5 else 0
  d6 := if 6 < dlc then d.d6 else 0
  d7 := if 7 < dlc then d.d7 else 0

/-- The extended flag in SIDL: bit 3 (R110, R147). -/
def regsExt (sidl : Byte) : Bool := sidl.getLsbD 3

/-- The ID assembled from the receive-buffer registers: 29 bits with the extended flag (R148), else the
11-bit standard ID (R149). -/
def regsId (sidh sidl eid8 eid0 : Byte) : CanId :=
  if regsExt sidl then
    sidh ++ sidl.extractLsb' 5 3 ++ sidl.extractLsb' 0 2 ++ eid8 ++ eid0
  else (sidh ++ sidl.extractLsb' 5 3 : BitVec 11).setWidth 29

/-- The DLC nibble of the DLC register (R110, R147). -/
def regsDlc (dlcreg : Byte) : BitVec 4 := dlcreg.setWidth 4

/-- The storage types of packet fields (R23). -/
inductive Store where
  | u8 | u16 | i16
deriving DecidableEq, Repr

/-- The lower storage bound; i16's is -32767 (R23). -/
def Store.lo : Store → Int
  | .u8 => 0
  | .u16 => 0
  | .i16 => -32767

/-- The upper storage bound (R23). -/
def Store.hi : Store → Int
  | .u8 => 255
  | .u16 => 65535
  | .i16 => 32767

/-- `clamp(lo, hi, r)` (R23). -/
def clamp (lo hi r : Int) : Int := min hi (max lo r)

/-- `rhaz(q)`, round half away from zero (R24). -/
def rhaz (q : ℚ) : Int :=
  if 0 ≤ q then (q + 1 / 2).floor else -(-q + 1 / 2).floor

/-- `quant(v, s, T)` (R25). -/
def quant (v s : ℚ) (t : Store) : Int := clamp t.lo t.hi (rhaz (v / s))

/-- `le16(w)`, low byte first (R22). -/
def le16 (w : Word16) : List Byte := [w.extractLsb' 0 8, w.extractLsb' 8 8]

/-- `le32(w)`, low byte first (R22). -/
def le32 (w : Word32) : List Byte := split32 w

/-- A 16-bit packet field, low byte first: the stored integer as its 16-bit pattern, which for a
signed one is `tc16` (R22, R231). -/
def pack16 (v s : ℚ) (t : Store) : List Byte := le16 (BitVec.ofInt 16 (quant v s t))

/-- An 8-bit packet field (R231). -/
def pack8 (v s : ℚ) (t : Store) : List Byte := [BitVec.ofInt 8 (quant v s t)]

/-- One row of a packet layout (R120, R124): the snapshot source, the scale and the storage type; the
rows of a layout stand in offset order without gaps. -/
structure PackRow where
  source : Slot
  scale : ℚ
  store : Store
deriving DecidableEq, Repr

/-- The bytes of a value under a scale and a storage type (R231). -/
def packAs (v s : ℚ) (t : Store) : List Byte :=
  match t with
  | .u8 => pack8 v s .u8
  | .u16 => pack16 v s .u16
  | .i16 => pack16 v s .i16

/-- Byte `k` of a packet (R18, R70). -/
def pktByte (b : List Byte) (k : Nat) : Byte := b.getD k 0

/-- The 16-bit word at offset `k` of a packet, low byte first (R73). -/
def pktWord (b : List Byte) (k : Nat) : Word16 := u16 (pktByte b k) (pktByte b (k + 1))

/-- A u16 field at offset `k` and scale `s` (R262). -/
def unpackU (b : List Byte) (k : Nat) (s : ℚ) : ℚ := ((pktWord b k).toNat : ℚ) * s

/-- An i16 field at offset `k` and scale `s` (R262). -/
def unpackS (b : List Byte) (k : Nat) (s : ℚ) : ℚ := (s16 (pktWord b k) : ℚ) * s

/-- A u8 field at offset `k` and scale `s` (R262). -/
def unpackB (b : List Byte) (k : Nat) (s : ℚ) : ℚ := ((pktByte b k).toNat : ℚ) * s

end Sys2Proof.Machine
end

