-- ==== Sys2Proof/Machine/Flags.lean ====
section
/-! DEFINITION. The flag bits of the two blocks (R46) and the counters and gap computations that go with
them: what sets and clears `hraf`, `tx_busy`, `halted`, `rx_valid`, `rx_have_last` and their framed
counterparts. -/

namespace Sys2Proof.Machine

/-- `hraf <- 1` together with a snapshot write (R181). -/
def Tx.recognize (t : Tx) (snap : Snapshot) : Tx := { t with snap := snap, hraf := true }

/-- `if P_TX_HANDSHAKE: tx_busy <- v` (R36, R230, R236). -/
def Tx.setBusy (t : Tx) (handshake v : Bool) : Tx :=
  { t with txBusy := if handshake then v else t.txBusy }

/-- `halted <- 1` on the TX block (R321). -/
def Tx.halt (t : Tx) : Tx := { t with halted := true }

/-- `seq <- n` (R233). -/
def Tx.setSeq (t : Tx) (n : Word16) : Tx := { t with seq := n }

/-- `seq8 <- n` (R292). -/
def Tx.setSeq8 (t : Tx) (n : Byte) : Tx := { t with seq8 := n }

/-- `halted <- 1` on the RX block (R321). -/
def Rx.halt (r : Rx) : Rx := { r with halted := true }

/-- The RX snapshot and `rx_valid <- 1`, in one step (R261). -/
def Rx.accept (r : Rx) (snap : RxSnapshot) : Rx := { r with snap := snap, valid := true }

/-- `if P_RX_GAP: rx_last_seq <- c; rx_have_last <- 1` (R41, R260). -/
def Rx.setLast (r : Rx) (rxGap : Bool) (c : Word16) : Rx :=
  { r with haveLast := if rxGap then true else r.haveLast
           lastSeq := if rxGap then c else r.lastSeq }

/-- The framed fields and `rxf_valid <- 1`, in one step (R293). -/
def Rx.acceptFramed (r : Rx) (snap : FramedSnapshot) : Rx := { r with fsnap := snap, fvalid := true }

/-- `if P_RX_GAP: rxf_last_seq8 <- n; rxf_have_last <- 1` (R42, R293). -/
def Rx.setFramedLast (r : Rx) (rxGap : Bool) (n : Byte) : Rx :=
  { r with fhaveLast := if rxGap then true else r.fhaveLast
           flastSeq8 := if rxGap then n else r.flastSeq8 }

/-- The gap of an accepted packet with counter `c` (R263): `(c - rx_last_seq - 1) mod 65536` after an
earlier packet, 0 for the first; none reported without P_RX_GAP. -/
def gap16 (rxGap haveLast : Bool) (last c : Word16) : Option Nat :=
  if rxGap then some (if haveLast then (c - last - 1).toNat else 0) else none

/-- The gap of an accepted framed datagram, modulo 256 (R293, R294). -/
def gap8 (rxGap haveLast : Bool) (last n : Byte) : Option Nat :=
  if rxGap then some (if haveLast then (n - last - 1).toNat else 0) else none

end Sys2Proof.Machine
end

