-- ==== Sys2Proof/Machine/Ops.lean ====
section
/-! DEFINITION. The shared operations of every meaning: reads and writes of the snapshot register file
(R30), the ways a command ends (R26, R38, R43, R401), the stuck state in place of an exception (R322,
R400), and the decode of a frame (R140). The block has no traps (R400): there is no exception entry and
no return to model. -/

namespace Sys2Proof.Machine

/-- What a meaning answers. -/
abbrev Result := Host.Outcome State Fault Refusal

/-- A field of the snapshot (R30). -/
def Snapshot.get (s : Snapshot) (f : Field) : ℚ := s.vals[f.idx]

/-- `snap.f <- v` (R30). -/
def Snapshot.set (s : Snapshot) (f : Field) (v : ℚ) : Snapshot :=
  { s with vals := s.vals.set f.idx v }

/-- A value of the snapshot as a rational (R19, R30). -/
def Snapshot.slot (s : Snapshot) : Slot → ℚ
  | .rpm => (s.rpm.toNat : ℚ)
  | .val f => s.get f

/-- The bytes of one row of a packet layout (R231). -/
def packRow (s : Snapshot) (row : PackRow) : List Byte := packAs (s.slot row.source) row.scale row.store

/-- One write of a routine. -/
def Snapshot.write (s : Snapshot) : Write → Snapshot
  | .rpm v => { s with rpm := v }
  | .val f v => s.set f v

/-- Every write of a routine; where two name one field the later wins (R145). -/
def Snapshot.writeAll (s : Snapshot) (ws : List Write) : Snapshot :=
  ws.foldl Snapshot.write s

/-- The state with another TX block. -/
def State.withTx (s : State) (t : Tx) : State := { s with tx := t }

/-- The state with another RX block. -/
def State.withRx (s : State) (r : Rx) : State := { s with rx := r }

/-- The state with other commands still to come. -/
def State.withPort (s : State) (p : List Presented) : State := { s with port := p }

/-- The command ends with an outcome code, no packet and no gap (R38, R43). -/
def State.ended (s : State) (c : Code) : State := { s with out := ⟨.done c, none, none⟩ }

/-- The command is held: no code, no packet (R235, R401). -/
def State.held (s : State) : State := { s with out := ⟨.hold, none, none⟩ }

/-- The command ends OK with a gap (R43). -/
def State.endedWithGap (s : State) (gap : Option Nat) : State :=
  { s with out := ⟨.done .ok, none, gap⟩ }

/-- The command ends OK and hands a packet to the link transport (R38). -/
def State.emits (s : State) (p : List Byte) : State :=
  { s with out := ⟨.done .ok, some p, none⟩, emitted := s.emitted ++ [p] }

/-- Is a block halted (R37, R321)? -/
def isHalted (s : State) : Block → Bool
  | .tx => s.tx.halted
  | .rx => s.rx.halted

/-- Every command but RESET is stuck on a halted block; the check comes first (R322, R403). What the stuck word
of one block means for the other is the model's choice (assumption 23). -/
def unlessHalted (b : Block) (s : State) (k : Result) : Result :=
  match isHalted s b with
  | true => .fault (.stuck b)
  | false => k

/-- `drop(reason)`: the code is the only trace (R26, R28, R146). -/
def drop (c : Code) (s : State) : Result := .next (s.ended c)

/-- Message `r` with a frame's DLC and payload, from check 3 on (R140, R143): too short a frame is
dropped, else the routine's writes and `hraf` take effect together. -/
def runRoutine (r : PE) (dlcIn : BitVec 4) (dataIn : Payload) (s : State) : Result :=
  let dlc := clampDlc dlcIn
  let data := zeroFill dlc dataIn
  if dlc < minDlc s.cfg r then drop .ignShortDlc s
  else
    .next ((s.withTx (s.tx.recognize (s.tx.snap.writeAll (routine s.cfg r data)))).ended .ok)

/-- FRAME_IN (R140): the halted check, then the extended flag, the ID, and the routine. -/
def frame (ext : Bool) (id : CanId) (dlc : BitVec 4) (data : Payload) (s : State) : Result :=
  unlessHalted .tx s
    (match ext, lookup s.cfg id with
    | false, _ => drop .ignStandard s
    | true, none => drop .ignUnknownId s
    | true, some r => runRoutine r dlc data s)

/-- A frame that carries the key of message `r` (R105, R140): it has the extended flag, and its ID is
in the active table or not. -/
def keyedFrame (r : PE) (dlc : BitVec 4) (data : Payload) (s : State) : Result :=
  unlessHalted .tx s
    (match isActive s.cfg r with
    | false => drop .ignUnknownId s
    | true => runRoutine r dlc data s)

/-- The emission gate and the hold (R234, R235), in that order (R403), before an emission. -/
def gated (s : State) (emission : Result) : Result :=
  match s.tx.hraf, s.cfg.txHandshake && s.tx.txBusy with
  | false, _ => drop .suppressed s
  | true, true => .next s.held
  | true, false => emission

/-- The framed commands exist only with P_FRAMED (R102, R290). -/
def ifFramed (s : State) (k : Result) : Result :=
  match s.cfg.framed with
  | true => k
  | false => .refused .framedAbsent

end Sys2Proof.Machine
end

