-- ==== Sys2Proof/Machine/Control.lean ====
section
/-! DEFINITION. RESET and HALT (45_control.md). -/

namespace Sys2Proof.Machine

/-- RESET: every register of the one block it is sent to takes its reset value, halted or not (R320,
R322). -/
def execReset (b : Block) (s : State) : Result :=
  match b with
  | .tx => .next ((s.withTx Tx.zero).ended .ok)
  | .rx => .next ((s.withRx Rx.zero).ended .ok)

/-- HALT: enter the fail-stop state (R321); a halted block is stuck (R322). -/
def execHalt (b : Block) (s : State) : Result :=
  unlessHalted b s <|
    match b with
    | .tx => .next ((s.withTx s.tx.halt).ended .ok)
    | .rx => .next ((s.withRx s.rx.halt).ended .ok)

end Sys2Proof.Machine
end

