-- ==== Sys2Proof/Machine/FrameInput.lean ====
section
/-! DEFINITION. FRAME_IN and FRAME_IN_REGS (40_frame_input.md). -/

namespace Sys2Proof.Machine

/-- FRAME_IN: present one raw CAN frame to the decoder (R140). -/
def execFrameIn (ext : Bool) (id : CanId) (dlc : BitVec 4) (data : Payload) (s : State) : Result :=
  frame ext id dlc data s

/-- FRAME_IN_REGS: assemble the frame from the receive-buffer registers, then decode it (R147). -/
def execFrameInRegs (sidh sidl eid8 eid0 dlcreg : Byte) (d : Payload) (s : State) : Result :=
  frame (regsExt sidl) (regsId sidh sidl eid8 eid0) (regsDlc dlcreg) d s

end Sys2Proof.Machine
end

