-- ==== Sys2Proof/Machine/Framed.lean ====
section
/-! DEFINITION. FRAMED_EMIT and FRAMED_IN, the 38-byte framed variant (44_framed_variant.md). -/

namespace Sys2Proof.Machine

/-- The fields of a framed datagram after its timestamp, in offset order (R124). -/
def datagramLayout : List PackRow :=
  [⟨.rpm, 1, .u16⟩, ⟨.val .tpsPct, 1 / 10, .i16⟩, ⟨.val .fotMs, 1 / 10, .i16⟩,
   ⟨.val .ignDeg, 1 / 10, .i16⟩, ⟨.val .mapKpa, 1 / 100, .u16⟩, ⟨.val .baroKpa, 1 / 100, .u16⟩,
   ⟨.val .lambda, 1 / 1000, .u16⟩, ⟨.val .oilPsi, 1 / 10, .i16⟩, ⟨.val .battV, 1 / 100, .i16⟩,
   ⟨.val .coolantC, 1 / 10, .i16⟩, ⟨.val .airC, 1 / 10, .i16⟩, ⟨.val .wsFlHz, 1 / 10, .u16⟩,
   ⟨.val .wsFrHz, 1 / 10, .u16⟩, ⟨.val .wsBlHz, 1 / 10, .u16⟩, ⟨.val .wsBrHz, 1 / 10, .u16⟩]

/-- The 38 bytes of a framed datagram with sequence number `n` and timestamp `ts` (R123, R124, R292). -/
def datagramOf (n : Byte) (ts : Word32) (s : Snapshot) : List Byte :=
  [0xAA, 0x01, n, 34] ++ le32 ts ++ datagramLayout.flatMap (packRow s)

/-- FRAMED_EMIT: pack the snapshot into a framed datagram (R292), behind the same gate and hold. -/
def execFramedEmit (ts : Word32) (s : State) : Result :=
  unlessHalted .tx s <| ifFramed s <| gated s <|
    let n := s.tx.seq8 + 1
    .next ((s.withTx ((s.tx.setSeq8 n).setBusy s.cfg.txHandshake true)).emits (datagramOf n ts s.tx.snap))

/-- The framed RX fields of a 38-byte datagram (R124, R293). -/
def snapshotOfDatagram (b : List Byte) : FramedSnapshot where
  seq8 := pktByte b 2
  tsMs := join32 (pktByte b 4) (pktByte b 5) (pktByte b 6) (pktByte b 7)
  rpm := pktWord b 8
  tpsPct := unpackS b 10 (1 / 10)
  fotMs := unpackS b 12 (1 / 10)
  ignDeg := unpackS b 14 (1 / 10)
  mapKpa := unpackU b 16 (1 / 100)
  baroKpa := unpackU b 18 (1 / 100)
  lambda := unpackU b 20 (1 / 1000)
  oilPsi := unpackS b 22 (1 / 10)
  battV := unpackS b 24 (1 / 100)
  coolantC := unpackS b 26 (1 / 10)
  airC := unpackS b 28 (1 / 10)
  wsFlHz := unpackU b 30 (1 / 10)
  wsFrHz := unpackU b 32 (1 / 10)
  wsBlHz := unpackU b 34 (1 / 10)
  wsBrHz := unpackU b 36 (1 / 10)

/-- The first check of R293 that a datagram fails, in the order of the rule; none if it passes. -/
def datagramFault (b : List Byte) : Option Code :=
  if b.length < 4 then some .dropLength
  else if pktByte b 0 ≠ 0xAA then some .dropPreamble
  else if pktByte b 1 ≠ 0x01 then some .dropVersion
  else if pktByte b 3 ≠ 34 then some .dropDeclaredLength
  else if b.length ≠ 38 then some .dropLength
  else none

/-- FRAMED_IN: check and decode one delivered datagram (R293). -/
def execFramedIn (bytes : List Byte) (s : State) : Result :=
  unlessHalted .rx s <| ifFramed s <|
    match datagramFault bytes with
    | some c => drop c s
    | none =>
      let n := pktByte bytes 2
      .next ((s.withRx ((s.rx.acceptFramed (snapshotOfDatagram bytes)).setFramedLast s.cfg.rxGap n)).endedWithGap
        (gap8 s.cfg.rxGap s.rx.fhaveLast s.rx.flastSeq8 n))

end Sys2Proof.Machine
end

