-- ==== Sys2Proof/Machine/PacketDecoder.lean ====
section
/-! DEFINITION. PKT_IN, the 22-byte packet decoder and the gap monitor (43_packet_decoder.md). -/

namespace Sys2Proof.Machine

/-- The RX snapshot of a 22-byte packet (R260, R262). -/
def snapshotOfPacket (b : List Byte) : RxSnapshot where
  seq := pktWord b 0
  rpm := pktWord b 2
  mapKpa := unpackU b 4 (1 / 10)
  tpsPct := unpackU b 6 (1 / 10)
  oilPsi := unpackS b 8 (1 / 10)
  coolantC := unpackS b 10 (1 / 10)
  lambda := unpackB b 12 (1 / 100)
  battV := unpackB b 13 (1 / 10)
  wsFlHz := unpackU b 14 (1 / 2)
  wsFrHz := unpackU b 16 (1 / 2)
  wsBlHz := unpackU b 18 (1 / 2)
  wsBrHz := unpackU b 20 (1 / 2)

/-- PKT_IN: decode one delivered datagram (R260); a length other than 22 is dropped (R264), and nothing
else is checked (R265). -/
def execPktIn (bytes : List Byte) (s : State) : Result :=
  unlessHalted .rx s <|
    if bytes.length = 22 then
      let c := pktWord bytes 0
      .next ((s.withRx ((s.rx.accept (snapshotOfPacket bytes)).setLast s.cfg.rxGap c)).endedWithGap
        (gap16 s.cfg.rxGap s.rx.haveLast s.rx.lastSeq c))
    else drop .dropLength s

end Sys2Proof.Machine
end

