-- ==== Sys2Proof/Machine/PacketEncoder.lean ====
section
/-! DEFINITION. EMIT and TX_DONE, the 22-byte packet encoder (42_packet_encoder.md). -/

namespace Sys2Proof.Machine

/-- The fields of a packet after its counter, in offset order (R120). -/
def packetLayout : List PackRow :=
  [⟨.rpm, 1, .u16⟩, ⟨.val .mapKpa, 1 / 10, .u16⟩, ⟨.val .tpsPct, 1 / 10, .u16⟩,
   ⟨.val .oilPsi, 1 / 10, .i16⟩, ⟨.val .coolantC, 1 / 10, .i16⟩, ⟨.val .lambda, 1 / 100, .u8⟩,
   ⟨.val .battV, 1 / 10, .u8⟩, ⟨.val .wsFlHz, 1 / 2, .u16⟩, ⟨.val .wsFrHz, 1 / 2, .u16⟩,
   ⟨.val .wsBlHz, 1 / 2, .u16⟩, ⟨.val .wsBrHz, 1 / 2, .u16⟩]

/-- The 22 bytes of a packet with counter `n` (R120, R230, R231). -/
def packetOf (n : Word16) (s : Snapshot) : List Byte := le16 n ++ packetLayout.flatMap (packRow s)

/-- EMIT: pack the snapshot into a packet that carries the incremented counter (R230, R233), behind the
gate and the hold (R234, R235). -/
def execEmit (s : State) : Result :=
  unlessHalted .tx s <| gated s <|
    let n := s.tx.seq + 1
    .next ((s.withTx ((s.tx.setSeq n).setBusy s.cfg.txHandshake true)).emits (packetOf n s.tx.snap))

/-- TX_DONE: the transport has sent the outstanding packet (R236). -/
def execTxDone (s : State) : Result :=
  unlessHalted .tx s <|
    .next ((s.withTx (s.tx.setBusy s.cfg.txHandshake false)).ended .ok)

end Sys2Proof.Machine
end

