-- ==== Sys2Proof/Machine/Routines.lean ====
section
/-! DEFINITION. The AN400 messages PE1 to PE16 (41_an400_routines.md): each is the frame that carries the
message's dispatch key, decoded by its rows of the field table. -/

namespace Sys2Proof.Machine

/-- PE1: engine speed, throttle, fuel open time, ignition angle (R182). -/
def execPe1 (dlc : BitVec 4) (data : Payload) (s : State) : Result := keyedFrame .pe1 dlc data s

/-- PE2: barometric and manifold pressure, lambda (R183). -/
def execPe2 (dlc : BitVec 4) (data : Payload) (s : State) : Result := keyedFrame .pe2 dlc data s

/-- PE3: analog inputs 1 to 4 and oil pressure (R184). -/
def execPe3 (dlc : BitVec 4) (data : Payload) (s : State) : Result := keyedFrame .pe3 dlc data s

/-- PE4: analog inputs 5 to 8 (R185). -/
def execPe4 (dlc : BitVec 4) (data : Payload) (s : State) : Result := keyedFrame .pe4 dlc data s

/-- PE5: wheel-speed frequencies (R186). -/
def execPe5 (dlc : BitVec 4) (data : Payload) (s : State) : Result := keyedFrame .pe5 dlc data s

/-- PE6: battery voltage, air and coolant temperature (R187). -/
def execPe6 (dlc : BitVec 4) (data : Payload) (s : State) : Result := keyedFrame .pe6 dlc data s

/-- PE7: thermistor temperatures (R188). -/
def execPe7 (dlc : BitVec 4) (data : Payload) (s : State) : Result := keyedFrame .pe7 dlc data s

/-- PE8: rates (R189). -/
def execPe8 (dlc : BitVec 4) (data : Payload) (s : State) : Result := keyedFrame .pe8 dlc data s

/-- PE9: lambda 1, lambda 2, target lambda (R190). -/
def execPe9 (dlc : BitVec 4) (data : Payload) (s : State) : Result := keyedFrame .pe9 dlc data s

/-- PE10: PWM duty cycles (R191). -/
def execPe10 (dlc : BitVec 4) (data : Payload) (s : State) : Result := keyedFrame .pe10 dlc data s

/-- PE11: slip and traction (R192). -/
def execPe11 (dlc : BitVec 4) (data : Payload) (s : State) : Result := keyedFrame .pe11 dlc data s

/-- PE12: average wheel speeds, ignition compensation (R193). -/
def execPe12 (dlc : BitVec 4) (data : Payload) (s : State) : Result := keyedFrame .pe12 dlc data s

/-- PE13: driven and non-driven wheel speeds (R194). -/
def execPe13 (dlc : BitVec 4) (data : Payload) (s : State) : Result := keyedFrame .pe13 dlc data s

/-- PE14: fuel compensation 1 (R195). -/
def execPe14 (dlc : BitVec 4) (data : Payload) (s : State) : Result := keyedFrame .pe14 dlc data s

/-- PE15: fuel compensation 2 (R196). -/
def execPe15 (dlc : BitVec 4) (data : Payload) (s : State) : Result := keyedFrame .pe15 dlc data s

/-- PE16: ignition compensation (R197). -/
def execPe16 (dlc : BitVec 4) (data : Payload) (s : State) : Result := keyedFrame .pe16 dlc data s

end Sys2Proof.Machine
end

