-- ==== Sys2Proof/Machine/Dispatch.lean ====
section
/-! DEFINITION. The dispatch of an instruction to its meaning, one arm per row of the opcode table. -/

namespace Sys2Proof.Machine

def exec (i : Instr) (s : State) : Host.Outcome State Fault Refusal :=
  match i with
  | .reset b => Sys2Proof.Machine.execReset b s
  | .frameIn ext id dlc data => Sys2Proof.Machine.execFrameIn ext id dlc data s
  | .frameInRegs sidh sidl eid8 eid0 dlcreg d => Sys2Proof.Machine.execFrameInRegs sidh sidl eid8 eid0 dlcreg d s
  | .emit => Sys2Proof.Machine.execEmit s
  | .txDone => Sys2Proof.Machine.execTxDone s
  | .halt b => Sys2Proof.Machine.execHalt b s
  | .pktIn bytes => Sys2Proof.Machine.execPktIn bytes s
  | .framedEmit ts => Sys2Proof.Machine.execFramedEmit ts s
  | .framedIn bytes => Sys2Proof.Machine.execFramedIn bytes s
  | .pe1 dlc data => Sys2Proof.Machine.execPe1 dlc data s
  | .pe2 dlc data => Sys2Proof.Machine.execPe2 dlc data s
  | .pe3 dlc data => Sys2Proof.Machine.execPe3 dlc data s
  | .pe4 dlc data => Sys2Proof.Machine.execPe4 dlc data s
  | .pe5 dlc data => Sys2Proof.Machine.execPe5 dlc data s
  | .pe6 dlc data => Sys2Proof.Machine.execPe6 dlc data s
  | .pe7 dlc data => Sys2Proof.Machine.execPe7 dlc data s
  | .pe8 dlc data => Sys2Proof.Machine.execPe8 dlc data s
  | .pe9 dlc data => Sys2Proof.Machine.execPe9 dlc data s
  | .pe10 dlc data => Sys2Proof.Machine.execPe10 dlc data s
  | .pe11 dlc data => Sys2Proof.Machine.execPe11 dlc data s
  | .pe12 dlc data => Sys2Proof.Machine.execPe12 dlc data s
  | .pe13 dlc data => Sys2Proof.Machine.execPe13 dlc data s
  | .pe14 dlc data => Sys2Proof.Machine.execPe14 dlc data s
  | .pe15 dlc data => Sys2Proof.Machine.execPe15 dlc data s
  | .pe16 dlc data => Sys2Proof.Machine.execPe16 dlc data s

end Sys2Proof.Machine
end

