-- ==== Sys2Proof/Machine/Fetch.lean ====
section
/-! DEFINITION. The presentation of input words: what a record that decodes to no instruction does (R102,
R323, R403), and how a word is put next on the port. -/

namespace Sys2Proof.Machine

/-- A record that decodes to no instruction: stuck if its block is halted, else refused by name (R322,
R323, R403). -/
def rejected (p : Presented) (r : Reject) (s : State) : Result :=
  unlessHalted p.port.block s
    (match r with
    | .reservedCode n => .refused (.reservedCode n)
    | .misdirected n => .refused (.misdirected n)
    | .malformed => .refused .malformedRecord)

/-- The state with a record presented before all others. -/
def presentNext (s : State) (p : Presented) : State := s.withPort (p :: s.port)

end Sys2Proof.Machine
end

