-- ==== Sys2Proof/Machine/Step.lean ====
section
/-! DEFINITION. One step of the machine: the next presented input word is decoded and executed (R6, R81). -/

namespace Sys2Proof.Machine

/-- One step (R6): take the next presented word from the port and run what it stands for. With no word
presented nothing happens (assumption 3). DESIGN CHOICE (assumption 23): both blocks share this step and the
port, so a word that is stuck or refused ends the joint machine, and the words of either block behind it, a
RESET among them, get no step. -/
def step (s : State) : Host.Outcome State Fault Refusal :=
  match s.port with
  | [] => .next s
  | p :: rest =>
    match decode s.cfg p with
    | .ok i => exec i (s.withPort rest)
    | .error r => rejected p r s

/-- `s` with a word of the opcode table presented next. -/
def State.withFetchWord (s : State) (nbits w : Nat) : State := presentNext s (tableRecord nbits w)

end Sys2Proof.Machine
end

