-- ==== Sys2Proof/Machine/FrontEnd.lean ====
section
/-! DEFINITION. The host front ends as far as the spec gives them (R82, R409 to R414, R454 to R457): the
registers of the MCP2515-class controller on the TX node, the SPI commands that read and write them, the
poll that turns received frames into presented words, the bring-up of each node with its fatal check, and
the words of the host table. They are no part of the block (R5, R411) and no field of State: they say which
words a conforming host presents. -/

namespace Sys2Proof.Machine

/-- The two receive buffers (R27). -/
inductive BufferNo where
  | rxb0 | rxb1
deriving DecidableEq, Repr

/-- The thirteen registers of a receive buffer, RXBnSIDH to RXBnD7 in address order (R109, R411). -/
abbrev RxBuffer := Vector Byte 13

/-- The controller registers of R411. -/
inductive Reg where
  | canstat | canctrl | cnf3 | cnf2 | cnf1 | caninte | canintf | eflg
  | rxbCtrl (n : BufferNo)
  | rxb (n : BufferNo) (k : Fin 13)
deriving DecidableEq, Repr

/-- The address of a register (R411). -/
def Reg.addr : Reg → Byte
  | .canstat => 0x0E
  | .canctrl => 0x0F
  | .cnf3 => 0x28
  | .cnf2 => 0x29
  | .cnf1 => 0x2A
  | .caninte => 0x2B
  | .canintf => 0x2C
  | .eflg => 0x2D
  | .rxbCtrl .rxb0 => 0x60
  | .rxbCtrl .rxb1 => 0x70
  | .rxb .rxb0 k => 0x61 + BitVec.ofNat 8 k
  | .rxb .rxb1 k => 0x71 + BitVec.ofNat 8 k

/-- The registers of the controller (R411). -/
structure Controller where
  canstat : Byte
  canctrl : Byte
  cnf3 : Byte
  cnf2 : Byte
  cnf1 : Byte
  caninte : Byte
  canintf : Byte
  eflg : Byte
  rxb0Ctrl : Byte
  rxb1Ctrl : Byte
  rxb0 : RxBuffer
  rxb1 : RxBuffer
deriving DecidableEq, Repr

/-- The value of a register. -/
def Controller.read (c : Controller) : Reg → Byte
  | .canstat => c.canstat
  | .canctrl => c.canctrl
  | .cnf3 => c.cnf3
  | .cnf2 => c.cnf2
  | .cnf1 => c.cnf1
  | .caninte => c.caninte
  | .canintf => c.canintf
  | .eflg => c.eflg
  | .rxbCtrl .rxb0 => c.rxb0Ctrl
  | .rxbCtrl .rxb1 => c.rxb1Ctrl
  | .rxb .rxb0 k => c.rxb0[k]
  | .rxb .rxb1 k => c.rxb1[k]

/-- The controller with another value in a register. -/
def Controller.write (c : Controller) (r : Reg) (v : Byte) : Controller :=
  match r with
  | .canstat => { c with canstat := v }
  | .canctrl => { c with canctrl := v }
  | .cnf3 => { c with cnf3 := v }
  | .cnf2 => { c with cnf2 := v }
  | .cnf1 => { c with cnf1 := v }
  | .caninte => { c with caninte := v }
  | .canintf => { c with canintf := v }
  | .eflg => { c with eflg := v }
  | .rxbCtrl .rxb0 => { c with rxb0Ctrl := v }
  | .rxbCtrl .rxb1 => { c with rxb1Ctrl := v }
  | .rxb .rxb0 k => { c with rxb0 := c.rxb0.set k v }
  | .rxb .rxb1 k => { c with rxb1 := c.rxb1.set k v }

/-- The registers of one buffer. -/
def Controller.buffer (c : Controller) : BufferNo → RxBuffer
  | .rxb0 => c.rxb0
  | .rxb1 => c.rxb1

/-- The controller with a frame in one buffer. -/
def Controller.setBuffer (c : Controller) (n : BufferNo) (b : RxBuffer) : Controller :=
  match n with
  | .rxb0 => { c with rxb0 := b }
  | .rxb1 => { c with rxb1 := b }

/-- The SPI commands of the front end (R412). -/
inductive Spi where
  | reset
  | read (r : Reg)
  | write (r : Reg) (v : Byte)
  | bitModify (r : Reg) (mask v : Byte)
deriving DecidableEq, Repr

/-- The bytes of an SPI command (R412). -/
def Spi.bytes : Spi → List Byte
  | .reset => [0xC0]
  | .read r => [0x03, r.addr]
  | .write r v => [0x02, r.addr, v]
  | .bitModify r mask v => [0x05, r.addr, mask, v]

/-- The bits of `mask` taken from `v`, the others kept (R412). -/
def masked (old mask v : Byte) : Byte := (old &&& ~~~mask) ||| (v &&& mask)

/-- What an SPI command does to the registers (R412, assumption 8). The spec gives no register's value after
RESET: `fresh` is any. DESIGN CHOICE (assumption 21): a write of CANCTRL's REQOP leaves CANSTAT as it is, since
the spec does not say if or when the controller enters the mode. -/
def Controller.spi (fresh c : Controller) : Spi → Controller
  | .reset => fresh
  | .read _ => c
  | .write r v => c.write r v
  | .bitModify r mask v => c.write r (masked (c.read r) mask v)

/-- Commands one after another. -/
def Controller.run (fresh c : Controller) (cmds : List Spi) : Controller := cmds.foldl (Controller.spi fresh) c

/-- The mask of RXnIF in CANINTF (R411). -/
def BufferNo.flagMask : BufferNo → Byte
  | .rxb0 => 0x01
  | .rxb1 => 0x02

/-- The mask of RXnOVR in EFLG (R411). -/
def BufferNo.overflowMask : BufferNo → Byte
  | .rxb0 => 0x40
  | .rxb1 => 0x80

/-- RXnIF: the buffer is full (R411). -/
def Controller.isFull (c : Controller) : BufferNo → Bool
  | .rxb0 => c.canintf.getLsbD 0
  | .rxb1 => c.canintf.getLsbD 1

/-- One of the two overflow bits is set (R411). -/
def Controller.overflowed (c : Controller) : Bool := c.eflg.getLsbD 6 || c.eflg.getLsbD 7

/-- A frame goes into a free buffer and sets its receive flag (R411). -/
def Controller.fill (c : Controller) (n : BufferNo) (b : RxBuffer) : Controller :=
  { c.setBuffer n b with canintf := c.canintf ||| n.flagMask }

/-- A frame is lost and an overflow bit is set; the spec does not say which, so `n` is any (R409). -/
def Controller.lose (c : Controller) (n : BufferNo) : Controller :=
  { c with eflg := c.eflg ||| n.overflowMask }

/-- A frame arrives (R409, R410, R414; assumption 8): buffer 0 takes it if it is free, else buffer 1, so that
a poll, which reads buffer 0 first, presents frames in arrival order; with both full it is lost, and so is
every frame while an overflow bit stands. DESIGN CHOICE (assumption 21): a frame is taken in every mode and
whatever RXM holds, since the spec does not say which frames a controller takes before R454 is done. -/
def Controller.arrive (c : Controller) (lost : BufferNo) (b : RxBuffer) : Controller :=
  if c.overflowed then c.lose lost
  else
    match c.isFull .rxb0, c.isFull .rxb1 with
    | false, _ => c.fill .rxb0 b
    | true, false => c.fill .rxb1 b
    | true, true => c.lose lost

/-- The command that a host gives a buffer's content to (R410): FRAME_IN of the frame it assembles, or
FRAME_IN_REGS of the registers. -/
inductive FrameForm where
  | assembled | registers
deriving DecidableEq, Repr

/-- The instruction of a buffer's content (R109, R147 to R149). The assembled frame has its bytes at the DLC and
above zero-filled by the front end (R458); the registers are presented as they stand (R109, R410; assumption
22), and the block fills (R142). -/
def FrameForm.instr (k : FrameForm) (b : RxBuffer) : Instr :=
  let data : Payload := ⟨b[5], b[6], b[7], b[8], b[9], b[10], b[11], b[12]⟩
  match k with
  | .assembled =>
    let dlc := regsDlc b[4]
    .frameIn (regsExt b[1]) (regsId b[0] b[1] b[2] b[3]) dlc (zeroFill (clampDlc dlc) data)
  | .registers => .frameInRegs b[0] b[1] b[2] b[3] b[4] data

/-- The word that presents a buffer's content (R410). -/
def presentBuffer (k : FrameForm) (b : RxBuffer) : Presented := encode defaultParams (k.instr b)

/-- `clearReceiveFlag` (R414, R456; the command is the model's choice, assumption 19). -/
def clearReceiveFlag (n : BufferNo) : Spi := .bitModify .canintf n.flagMask 0

/-- The commands that read a full buffer and clear its flag (R410, R456; assumption 19). -/
def drainTransactions (c : Controller) (n : BufferNo) : List Spi :=
  if c.isFull n then (List.finRange 13).map (fun k => .read (.rxb n k)) ++ [clearReceiveFlag n] else []

/-- The commands of one poll (R82, R409, R410, R457; assumption 19): the receive flags, buffer 0 before
buffer 1, then the overflow bits, cleared. -/
def pollTransactions (c : Controller) : List Spi :=
  [.read .canintf] ++ drainTransactions c .rxb0 ++ drainTransactions c .rxb1
    ++ [.read .eflg, .bitModify .eflg 0xC0 0]

/-- What one poll presents: a full buffer's frame, buffer 0's before buffer 1's (R82, R410). -/
def pollPresents (k : FrameForm) (c : Controller) : List Presented :=
  ([BufferNo.rxb0, .rxb1].filter c.isFull).map (fun n => presentBuffer k (c.buffer n))

/-- One poll: the words it presents and the controller after its commands. -/
def Controller.poll (k : FrameForm) (c : Controller) : List Presented × Controller :=
  (pollPresents k c, Controller.run c c (pollTransactions c))

/-- The interrupt-armed variant also writes CANINTE (R404, R411); the spec gives no bit of it, so `v` is any,
and the frames come from the poll all the same. -/
def armInterrupts (v : Byte) : Spi := .write .caninte v

/-- The controller's operating modes by their REQOP and OPMOD bits (R411). -/
inductive Mode where
  | normal | configuration
deriving DecidableEq, Repr

/-- The mode's three bits (R411). -/
def Mode.bits : Mode → BitVec 3
  | .normal => 0b000
  | .configuration => 0b100

/-- `setMode` succeeds only if CANSTAT's OPMOD bits 7:5 read back the mode (R411, R413). -/
def modeConfirmed (m : Mode) (canstat : Byte) : Bool := canstat.extractLsb' 5 3 = m.bits

/-- `setMode`: "a masked register write" of CANCTRL's REQOP bits 7:5, then "a subsequent status-register
read" of CANSTAT (R411, R413). -/
def spiSetMode (m : Mode) : List Spi :=
  [.bitModify .canctrl 0xE0 (m.bits.setWidth 8 <<< 5), .read .canstat]

/-- `configureBitTiming`: the values of R455. That each register is set by WRITE, and the order CNF1, CNF2,
CNF3, is the model's choice (assumption 19): the spec says neither. -/
def configureBitTiming : List Spi := [.write .cnf1 0x41, .write .cnf2 0xF1, .write .cnf3 0x85]

/-- `enableReceiveAny`: RXM = 11 in both receive-control registers (R411, R454). That it is done by BIT
MODIFY with mask 0x60, which leaves the other bits, and RXB0CTRL first, is the model's choice (assumption
19): the spec says neither. -/
def enableReceiveAny : List Spi :=
  [.bitModify (.rxbCtrl .rxb0) 0x60 0x60, .bitModify (.rxbCtrl .rxb1) 0x60 0x60]

/-- The commands of the bring-up in the order of R454: reset, configuration mode; and, once that mode is
confirmed by CANSTAT (the value read back is any, assumption 21), bit timing, receive any, normal mode. An
unconfirmed mode is fatal and nothing more is sent ("no retry", R402). Which SPI commands the steps use, where R412 and R454 leave it open, is the model's
choice (assumption 19). So is when the radio's status is checked: the commands do not depend on it, and a failed
radio cuts none of them short (assumption 21). -/
def bringUpTransactions (canstatAfterConfig : Byte) : List Spi :=
  .reset :: spiSetMode .configuration
    ++ if modeConfirmed .configuration canstatAfterConfig then
        configureBitTiming ++ enableReceiveAny ++ spiSetMode .normal
      else []

/-- What a host presents at power-on (R410, R454): RESET first, then HALT if a mode or status check fails. -/
def powerOn (b : Block) (checksPass : Bool) : List Presented :=
  encode defaultParams (.reset b) :: (if checksPass then [] else [encode defaultParams (.halt b)])

/-- The TX node's power-on: the checks are the two modes read back and the radio's status (R454). The values read
back are arguments, not the `canstat` of a Controller, and the spec does not order the radio's check among the
others (DESIGN CHOICE, assumption 21). -/
def bringUp (canstatAfterConfig canstatAfterNormal : Byte) (radioOk : Bool) : List Presented :=
  powerOn .tx (modeConfirmed .configuration canstatAfterConfig && modeConfirmed .normal canstatAfterNormal
    && radioOk)

/-- The RX node's power-on (R415): it has no CAN controller, so the radio's status is the only check. -/
def bringUpRx (radioOk : Bool) : List Presented := powerOn .rx radioOk

/-- The command a host gives a delivered datagram to (R410): PKT_IN or FRAMED_IN. -/
inductive Reader where
  | packet | framed
deriving DecidableEq, Repr

/-- The instruction that reads a datagram. -/
def Reader.instr (k : Reader) (bytes : List Byte) : Instr :=
  match k with
  | .packet => .pktIn bytes
  | .framed => .framedIn bytes

/-- The word that presents a delivered datagram with its bytes and length (R410). -/
def presentDatagram (k : Reader) (bytes : List Byte) : Presented := encode defaultParams (k.instr bytes)

/-- The interactions of the host table (R410). The framed variant's emission tick brings the timestamp. -/
inductive HostEvent where
  | poll (k : FrameForm) (c : Controller)
  | emissionTick
  | framedEmissionTick (ts : Word32)
  | transportCompletion
  | fatalInitFailure (b : Block)
  | datagramReceived (k : Reader) (bytes : List Byte)
  | powerOn (b : Block)
deriving DecidableEq, Repr

/-- What the host sends for an interaction (R410, column "the host sends"). -/
def HostEvent.presents : HostEvent → List Presented
  | .poll k c => pollPresents k c
  | .emissionTick => [encode defaultParams .emit]
  | .framedEmissionTick ts => [encode defaultParams (.framedEmit ts)]
  | .transportCompletion => [encode defaultParams .txDone]
  | .fatalInitFailure b => [encode defaultParams (.halt b)]
  | .datagramReceived k bytes => [presentDatagram k bytes]
  | .powerOn b => [encode defaultParams (.reset b)]

/-- The handshake duty of R410: with P_TX_HANDSHAKE the host waits for TX_DONE before the next emission, and
sends TX_DONE once per completed packet, so only while one is outstanding. -/
def keepsHandshake (s : State) (i : Instr) : Bool :=
  match i with
  | .emit => !(s.cfg.txHandshake && s.tx.txBusy)
  | .framedEmit _ => !(s.cfg.txHandshake && s.tx.txBusy)
  | .txDone => !s.cfg.txHandshake || s.tx.txBusy
  | _ => true

end Sys2Proof.Machine
end

