-- ==== Sys2Proof/Machine/Link.lean ====
section
/-! DEFINITION. The link transport from the TX block to the RX block (R7, R83, R417), and the size of the
error a packet field makes (R239). -/

namespace Sys2Proof.Machine

/-- A delivery the transport may make (R7, R83): packets may be lost, delayed, duplicated and reordered,
so each delivered one was emitted and nothing more is known. -/
def Admissible (emitted delivered : List (List Byte)) : Prop := ∀ p ∈ delivered, p ∈ emitted

/-- A delivery in which packets may also be corrupted in transit (R265): a delivered datagram has the length
of an emitted one and any content. Every admissible delivery is one of these. -/
def AdmissibleCorrupted (emitted delivered : List (List Byte)) : Prop :=
  ∀ p ∈ delivered, ∃ q ∈ emitted, p.length = q.length

/-- The RX node is presented a whole delivery, in its order, each datagram through the command its host
gives it to (R410). -/
def State.deliver (s : State) (delivered : List (Reader × List Byte)) : State :=
  s.withPort (s.port ++ delivered.map fun d => presentDatagram d.1 d.2)

/-- R239 for one field: `got` is within half a step of `v` when `v / s` lies in the storage bounds, and is
the nearer bound outside them. -/
def Reconstructs (v s : ℚ) (t : Store) (got : ℚ) : Prop :=
  ((t.lo : ℚ) ≤ v / s → v / s ≤ (t.hi : ℚ) → |got - v| ≤ s / 2)
    ∧ (v / s < (t.lo : ℚ) → got = (t.lo : ℚ) * s)
    ∧ ((t.hi : ℚ) < v / s → got = (t.hi : ℚ) * s)

/-- An exact tie: the fractional part is exactly 1/2 (R240). -/
def IsTie (q : ℚ) : Prop := Int.fract q = 1 / 2

end Sys2Proof.Machine
end

