-- ==== Sys2Proof/Machine/Run.lean ====
section
/-! DEFINITION. The run of one block (R464): the commands presented to it, from RESET on, and how the run
stands after them. -/

namespace Sys2Proof.Machine

/-- How a run stands (R464): ended in its final state, with the last command held and so still pending, in
the halted state and so stuck, or refused. `packets` are those emitted in the run, oldest first. -/
inductive RunEnd where
  | final (s : State) (packets : List (List Byte))
  | pending (s : State) (packets : List (List Byte)) (held : Presented)
  | stuck (s : State) (packets : List (List Byte))
  | refused (e : Refusal)
deriving DecidableEq, Repr

/-- The packets emitted since `before` packets had been. -/
def State.packetsSince (s : State) (before : Nat) : List (List Byte) := s.emitted.drop before

/-- Block `b` runs the words of a run one after another, each alone on the port. A word that halts the block
ends the run stuck, whatever follows it; a last word that is held leaves the run pending (R464, assumption
20). -/
def runWords (b : Block) (before : Nat) : List Presented → State → RunEnd
  | [], s => .final s (s.packetsSince before)
  | p :: rest, s =>
    match step (s.withPort [p]) with
    | .fault _ => .stuck s (s.packetsSince before)
    | .refused e => .refused e
    | .next t =>
      match isHalted t b, rest, t.out.answer with
      | true, _, _ => .stuck t (t.packetsSince before)
      | false, [], .hold => .pending t (t.packetsSince before) p
      | false, _, _ => runWords b before rest t

/-- The word that presents RESET to a block (R410). -/
def resetWord (b : Block) : Presented := encode defaultParams (.reset b)

/-- A run of block `b` from a state: RESET, then the given words (R453, R464). -/
def run (b : Block) (words : List Presented) (s : State) : RunEnd :=
  runWords b s.emitted.length (resetWord b :: words) s

/-- The words of a run are all the block's (R464). -/
def wordsOf (b : Block) (words : List Presented) : Bool := words.all fun p => p.port.block = b

end Sys2Proof.Machine
end

