-- ==== Sys2Proof/Safety.lean ====
section
/-! DEFINITION. The terms the statements use: what an instruction leaves alone (the frames), which states
are reachable-like (the invariants), and what a conforming host does not do (R102, R322, R410). -/

namespace Sys2Proof.Machine

/-- Every register outside the TX block, the parameters and the commands still to come are unchanged. -/
def OnlyTx (s t : State) : Prop := t.cfg = s.cfg ∧ t.rx = s.rx ∧ t.port = s.port

/-- Every register outside the RX block, the parameters, the commands still to come and the packets
emitted are unchanged, and no packet is handed out. -/
def OnlyRx (s t : State) : Prop :=
  t.cfg = s.cfg ∧ t.tx = s.tx ∧ t.port = s.port ∧ t.emitted = s.emitted ∧ t.out.packet = none

/-- The same answer with its next state, if it has one, changed by `f`. -/
def mapNext (f : State → State) : Result → Result
  | .next t => .next (f t)
  | .fault e => .fault e
  | .refused e => .refused e

/-- No packet was handed to the transport and no gap reported. -/
def NoPacket (s t : State) : Prop := t.emitted = s.emitted ∧ t.out.packet = none ∧ t.out.gap = none

/-- The command did nothing but answer `a` (R146, R235, R401). -/
def OnlyAnswers (a : Answer) (s t : State) : Prop :=
  OnlyTx s t ∧ NoPacket s t ∧ t.tx = s.tx ∧ t.out.answer = a

/-- The fields of a snapshot outside a list are unchanged. -/
def OnlyFields (fs : List Field) (s t : Snapshot) : Prop := ∀ f, f ∉ fs → t.get f = s.get f

/-- A recognized frame (R144, R181): OK, `hraf` set, and of the whole state only the fields of the list
(and `rpm`, which each statement gives by itself) may differ. -/
def Recognized (fs : List Field) (s t : State) : Prop :=
  OnlyTx s t ∧ NoPacket s t ∧ t.out.answer = .done .ok ∧ t.tx.hraf = true
    ∧ OnlyFields fs s.tx.snap t.tx.snap
    ∧ t.tx.seq = s.tx.seq ∧ t.tx.seq8 = s.tx.seq8 ∧ t.tx.txBusy = s.tx.txBusy ∧ t.tx.halted = s.tx.halted

/-- Every register of the TX block is 0 (R320, R450). -/
def Tx.AllZero (t : Tx) : Prop :=
  t.snap.rpm = 0 ∧ (∀ f : Field, t.snap.get f = 0)
    ∧ t.hraf = false ∧ t.seq = 0 ∧ t.seq8 = 0 ∧ t.txBusy = false ∧ t.halted = false

/-- Every register of the RX block is 0 (R320, R450). -/
def Rx.AllZero (r : Rx) : Prop :=
  r.snap = ⟨0, 0, 0, 0, 0, 0, 0, 0, 0, 0, 0, 0⟩ ∧ r.valid = false ∧ r.haveLast = false ∧ r.lastSeq = 0
    ∧ r.fsnap = ⟨0, 0, 0, 0, 0, 0, 0, 0, 0, 0, 0, 0, 0, 0, 0, 0, 0⟩
    ∧ r.fvalid = false ∧ r.fhaveLast = false ∧ r.flastSeq8 = 0 ∧ r.halted = false

/-- What holds of the TX block in every state a run reaches: nothing is counted, written or outstanding
before a recognized frame (R33, R34, R234, R235); no handshake bit without P_TX_HANDSHAKE (R36); no framed
counter without P_FRAMED (R35); no extended field in the BASIC variant (R32). -/
structure TxCoherent (c : Params) (t : Tx) : Prop where
  gate_busy : t.hraf = false → t.txBusy = false
  gate_seq : t.hraf = false → t.seq = 0
  gate_seq8 : t.hraf = false → t.seq8 = 0
  gate_snap : t.hraf = false → t.snap = Snapshot.zero
  no_handshake : c.txHandshake = false → t.txBusy = false
  no_framed : c.framed = false → t.seq8 = 0
  basic_only : c.variant = .basic → ∀ f : Field, f.isBasic = false → t.snap.get f = 0

/-- What holds of the RX block in every state a run reaches: the snapshots are at reset until the valid
bit is set (R40), the gap registers repeat the last accepted counter and exist only with P_RX_GAP (R41),
and the framed registers exist only with P_FRAMED (R42, R290). -/
structure RxCoherent (c : Params) (r : Rx) : Prop where
  invalid_zero : r.valid = false → r.snap = RxSnapshot.zero ∧ r.haveLast = false
  last_is_seq : r.haveLast = true → r.lastSeq = r.snap.seq
  first_last : r.haveLast = false → r.lastSeq = 0
  no_gap : c.rxGap = false → r.haveLast = false ∧ r.fhaveLast = false
  gap_valid : c.rxGap = true → r.valid = true → r.haveLast = true
  finvalid_zero : r.fvalid = false → r.fsnap = FramedSnapshot.zero ∧ r.fhaveLast = false
  flast_is_seq : r.fhaveLast = true → r.flastSeq8 = r.fsnap.seq8
  ffirst_last : r.fhaveLast = false → r.flastSeq8 = 0
  fgap_valid : c.rxGap = true → r.fvalid = true → r.fhaveLast = true
  no_framed : c.framed = false → r.fvalid = false

/-- The shape of a packet handed to the transport: 22 bytes, or 38 with P_FRAMED, led by the header of R123
(R38, R121, R123). -/
def PacketShape (framed : Bool) (p : List Byte) : Prop :=
  p.length = 22
    ∨ (framed = true ∧ p.length = 38 ∧ pktByte p 0 = 0xAA ∧ pktByte p 1 = 0x01 ∧ pktByte p 3 = 34)

/-- The invariant of the whole machine. -/
structure Coherent (s : State) : Prop where
  tx : TxCoherent s.cfg s.tx
  rx : RxCoherent s.cfg s.rx
  packets : ∀ p ∈ s.emitted, PacketShape s.cfg.framed p

/-- A row that keeps a field of domain `Rat, >= 0` so: an unsigned read, a scale that is not negative, and
at most the pressure conversion (R31, R150, R155). A table with another row may leave the domain (assumption
13). -/
def keepsNonneg (d : Descriptor) : Bool :=
  match d.dest with
  | none => true
  | some .rpm => true
  | some (.val f) =>
    !f.isNonneg
      || ((match d.read with
          | .u16 => true
          | .s16 => false
          | .u8 => true
          | .flag => true)
        && decide (0 ≤ d.scale)
        && (match d.conv with
          | .scaled => true
          | .kpa _ => true
          | .degc _ => false
          | .oil => false))

/-- The rows of every message keep the domains of R31. -/
def keepsDomains (c : Params) : Bool := PE.all.all fun r => (rowsOf c r).all keepsNonneg

/-- Every field of domain `Rat, >= 0` is so (R31). -/
def Nonneg (s : State) : Prop := ∀ f : Field, f.isNonneg = true → 0 ≤ s.tx.snap.get f

/-- Is the instruction one of the framed variant (R14)? -/
def needsFramed : Instr → Bool
  | .framedEmit _ => true
  | .framedIn _ => true
  | _ => false

/-- Is the instruction a frame, by command or by key (R144)? -/
def isFrame (i : Instr) : Bool :=
  match i with
  | .frameIn .. => true
  | .frameInRegs .. => true
  | _ => i.key?.isSome

/-- The rational fields that routine `r` writes under the parameters. -/
def writtenFields (c : Params) (r : PE) : List Field :=
  (writingRowsOf c r).filterMap fun d =>
    match d.dest with
    | some (.val f) => some f
    | some .rpm => none
    | none => none

/-- The TX block runs message `r` with the default rows of its table: it is not halted, the field table is
the default one, and `r` is in the active table. -/
def Ready (s : State) (r : PE) : Prop :=
  s.tx.halted = false ∧ s.cfg.fieldTable = defaultFieldTable ∧ isActive s.cfg r = true

/-- A frame long enough for message `r`'s own rows is long enough for the oil row too, where P_OIL_SOURCE
puts it on `r` (R199). -/
def OilFits (c : Params) (r : PE) (dlc : BitVec 4) : Prop :=
  c.oilSource.frame = r → c.oilSource.offset + 2 ≤ min dlc.toNat 8

/-- The field that the oil row adds to those of message `r` (R184, R199). -/
def oilFields (c : Params) (r : PE) : List Field := if c.oilSource.frame = r then [.oilPsi] else []

/-- The oil pressure from the word that P_OIL_SOURCE names, at a divisor that is not 0 (R157). -/
def OilPressure (c : Params) (d : Payload) (v : ℚ) : Prop :=
  c.oilCal.divisor ≠ 0 →
    v = (s16 (u16 (byteAt d c.oilSource.offset) (byteAt d (c.oilSource.offset + 1))) : ℚ)
      / c.oilCal.divisor * c.oilCal.gain - c.oilCal.offset

/-- EMIT and FRAMED_EMIT produce an output: a frame has been recognized and no packet is outstanding
(R234, R235). -/
def MayEmit (s : State) : Prop :=
  s.tx.halted = false ∧ s.tx.hraf = true ∧ (s.cfg.txHandshake = true → s.tx.txBusy = false)

/-- The TX block after an emission, but for the counter: the snapshot and the other registers stand, and
with P_TX_HANDSHAKE the block is busy (R230, R292). -/
def Emitted (p : List Byte) (s t : State) : Prop :=
  OnlyTx s t ∧ t.out = ⟨.done .ok, some p, none⟩ ∧ t.emitted = s.emitted ++ [p]
    ∧ t.tx.snap = s.tx.snap ∧ t.tx.hraf = s.tx.hraf ∧ t.tx.halted = s.tx.halted
    ∧ (s.cfg.txHandshake = true → t.tx.txBusy = true)
    ∧ (s.cfg.txHandshake = false → t.tx.txBusy = s.tx.txBusy)

/-- The host presents `i` to a block that has it and is not halted (R102, R322). -/
def Accepts (s : State) (i : Instr) : Prop :=
  isHalted s i.block = false ∧ (needsFramed i = true → s.cfg.framed = true)

/-- A packet of a delivery is accepted through the command that reads it: OK, and the valid bit is set. -/
def ReadsAs (s : State) (k : Reader) (p : List Byte) : Prop :=
  decode s.cfg (presentDatagram k p) = .ok (k.instr p)
    ∧ ∃ t, exec (k.instr p) s = .next t ∧ t.out.answer = .done .ok
      ∧ (k = .packet → t.rx.valid = true) ∧ (k = .framed → t.rx.fvalid = true)

end Sys2Proof.Machine
end

