-- ==== Sys2Proof/Certificates/Slice0/Obligations.lean ====
section
/-! DEFINITION. The statements for the provers, in the order of the spec's files. -/

open Sys2Proof Sys2Proof.Machine

/-! ## Numbers (00_scope.md) -/

/-- R20, R21, R22: the 16-bit word of two bytes, its signed reading, and its bytes, low first. -/
def Obligations.WordsOfBytesAndBack : Prop :=
  (∀ lo hi : Byte, (u16 lo hi).toNat = hi.toNat * 256 + lo.toNat)
    ∧ (∀ v : Word16, (v.toNat ≤ 32767 → s16 v = v.toNat) ∧ (32767 < v.toNat → s16 v = (v.toNat : Int) - 65536))
    ∧ (∀ w : Word16, (le16 w).map BitVec.toNat = [w.toNat % 256, w.toNat / 256] ∧ pktWord (le16 w) 0 = w)
    ∧ (∀ r : Int, -32768 ≤ r → r ≤ 32767 →
        ((BitVec.ofInt 16 r).toNat : Int) = r % 65536 ∧ s16 (BitVec.ofInt 16 r) = r)
    ∧ (∀ w : Word32, (le32 w).map BitVec.toNat
        = [w.toNat % 256, w.toNat / 256 % 256, w.toNat / 65536 % 256, w.toNat / 16777216])

/-- R24: round half away from zero, its formula, its error, its symmetry and what it does to a tie. -/
def Obligations.RoundsHalfAwayFromZero : Prop :=
  ∀ q : ℚ,
    (0 ≤ q → rhaz q = ⌊q + 1 / 2⌋) ∧ (q < 0 → rhaz q = -⌊-q + 1 / 2⌋)
      ∧ |(rhaz q : ℚ) - q| ≤ 1 / 2 ∧ rhaz (-q) = -rhaz q
      ∧ (IsTie q → |(rhaz q : ℚ)| = |q| + 1 / 2)

/-- R23, R25: the clamp, the storage bounds, and the stored integer of a value at a scale; clamping before
rounding and after it agree, and the result lies in the storage bounds. -/
def Obligations.ClampAndRoundCommute : Prop :=
  (∀ lo hi r : Int, clamp lo hi r = min hi (max lo r))
    ∧ (Store.u8.lo = 0 ∧ Store.u8.hi = 255 ∧ Store.u16.lo = 0 ∧ Store.u16.hi = 65535
      ∧ Store.i16.lo = -32767 ∧ Store.i16.hi = 32767)
    ∧ ∀ (v s : ℚ) (t : Store), 0 < s →
      quant v s t = clamp t.lo t.hi (rhaz (v / s))
        ∧ quant v s t = rhaz (min (t.hi : ℚ) (max (t.lo : ℚ) (v / s)))
        ∧ t.lo ≤ quant v s t ∧ quant v s t ≤ t.hi

/-! ## State (10_state.md) and reset (70_reset_and_hazards.md) -/

/-- R450: every register of both blocks is 0 in the reset state. -/
def Obligations.ResetStateIsZero : Prop := State.reset.tx.AllZero ∧ State.reset.rx.AllZero

/-- The reset state meets the machine's invariant and the domains of R31, with the default tables. -/
def Obligations.ResetMeetsTheInvariants : Prop :=
  Coherent State.reset ∧ keepsDomains State.reset.cfg = true ∧ Nonneg State.reset

/-- R33 to R36, R40 to R42 as one invariant of the machine: every step keeps it. -/
def Obligations.StepKeepsTheInvariant : Prop :=
  ∀ s t : State, Coherent s → step s = .next t → Coherent t

/-- R31: with rows that keep the domains, every step keeps the fields of domain `Rat, >= 0` so. -/
def Obligations.StepKeepsTheDomains : Prop :=
  ∀ s t : State, keepsDomains s.cfg = true → Nonneg s → step s = .next t →
    Nonneg t ∧ keepsDomains t.cfg = true

/-- R47: no step changes a parameter, and no step takes back a packet already handed to the transport. R464: a
run of a block leaves the parameters and the earlier packets too; it ends only with its last command completed
and the block not halted, is pending only with its last command held, and is stuck only with the block halted;
what it ends in does not depend on the block's registers before its RESET (R453); and the packets of a run of the
TX block with no second RESET carry the counters 1, 2, 3, … modulo 65536 (R233, R452). The run is the model's reading of R464
(assumption 20). -/
def Obligations.ParametersAndEmittedPacketsStand : Prop :=
  (∀ s t : State, step s = .next t → t.cfg = s.cfg ∧ ∃ new, new.length ≤ 1 ∧ t.emitted = s.emitted ++ new)
    ∧ (∀ (b : Block) (s : State) (words : List Presented), wordsOf b words = true →
      (∀ t packets, run b words s = .final t packets →
        t.cfg = s.cfg ∧ t.emitted = s.emitted ++ packets ∧ isHalted t b = false ∧ t.out.answer ≠ .hold)
      ∧ (∀ t packets p, run b words s = .pending t packets p →
        t.cfg = s.cfg ∧ t.emitted = s.emitted ++ packets ∧ isHalted t b = false ∧ t.out.answer = .hold
          ∧ words.getLast? = some p)
      ∧ (∀ t packets, run b words s = .stuck t packets →
        t.cfg = s.cfg ∧ t.emitted = s.emitted ++ packets ∧ isHalted t b = true))
    ∧ (∀ (b : Block) (s s' t : State) (words : List Presented) (packets : List (List Byte)),
      wordsOf b words = true → s.cfg = s'.cfg → run b words s = .final t packets →
      ∃ t', run b words s' = .final t' packets ∧ t'.out = t.out
        ∧ (b = .tx → t'.tx = t.tx ∧ t'.rx = s'.rx) ∧ (b = .rx → t'.rx = t.rx ∧ t'.tx = s'.tx))
    ∧ ∀ (s t : State) (words : List Presented) (packets : List (List Byte)),
      wordsOf .tx words = true → (∀ p ∈ words, decode s.cfg p ≠ .ok (.reset .tx)) →
      s.cfg.framed = false → run .tx words s = .final t packets →
      t.tx.seq.toNat = packets.length % 65536
        ∧ ∀ (k : Nat) (p : List Byte), packets[k]? = some p → (pktWord p 0).toNat = (k + 1) % 65536

/-- R30, R33 to R37: which instructions write each register of the TX block. -/
def Obligations.WritersOfTheTxRegisters : Prop :=
  ∀ (i : Instr) (s t : State), exec i s = .next t → i ≠ .reset .tx →
    (isFrame i = false → t.tx.snap = s.tx.snap ∧ t.tx.hraf = s.tx.hraf)
      ∧ (s.tx.hraf = true → t.tx.hraf = true)
      ∧ (i ≠ .emit → t.tx.seq = s.tx.seq)
      ∧ ((∀ ts, i ≠ .framedEmit ts) → t.tx.seq8 = s.tx.seq8)
      ∧ (i ≠ .emit → i ≠ .txDone → (∀ ts, i ≠ .framedEmit ts) → t.tx.txBusy = s.tx.txBusy)
      ∧ (i ≠ .halt .tx → t.tx.halted = s.tx.halted)

/-- R39 to R42: which instructions write each register of the RX block. -/
def Obligations.WritersOfTheRxRegisters : Prop :=
  ∀ (i : Instr) (s t : State), exec i s = .next t → i ≠ .reset .rx →
    ((∀ b, i ≠ .pktIn b) → t.rx.snap = s.rx.snap ∧ t.rx.valid = s.rx.valid
        ∧ t.rx.haveLast = s.rx.haveLast ∧ t.rx.lastSeq = s.rx.lastSeq)
      ∧ (s.rx.valid = true → t.rx.valid = true)
      ∧ ((∀ b, i ≠ .framedIn b) → t.rx.fsnap = s.rx.fsnap ∧ t.rx.fvalid = s.rx.fvalid
        ∧ t.rx.fhaveLast = s.rx.fhaveLast ∧ t.rx.flastSeq8 = s.rx.flastSeq8)
      ∧ (s.rx.fvalid = true → t.rx.fvalid = true)
      ∧ (i ≠ .halt .rx → t.rx.halted = s.rx.halted)

/-- R48: no instruction of one block reads or writes the other's registers. Two states that differ only in
the other block give the same answer, and each keeps its own other block. -/
def Obligations.BlocksDoNotInterfere : Prop :=
  (∀ (i : Instr) (s : State) (r : Rx), i.block = .tx →
      exec i (s.withRx r) = mapNext (fun t => t.withRx r) (exec i s)
        ∧ ∀ t, exec i s = .next t → t.rx = s.rx)
    ∧ (∀ (i : Instr) (s : State) (x : Tx), i.block = .rx →
      exec i (s.withTx x) = mapNext (fun t => t.withTx x) (exec i s)
        ∧ ∀ t, exec i s = .next t → t.tx = s.tx)

/-! ## Encodings (30_encoding.md) and the step (00_scope.md R6, 20_memory.md R81) -/

/-- A step runs the instruction that the next presented record decodes to, with that record taken off the
port and everything else as it was. The port of State is the model's (assumption 3). -/
def Obligations.StepRunsTheDecodedInstruction : Prop :=
  ∀ (s : State) (p : Presented) (rest : List Presented) (i : Instr),
    s.port = p :: rest → decode s.cfg p = .ok i → step s = exec i (s.withPort rest)

/-- Words written out from R100 and R105 decode to the instructions they stand for. Their byte layout is
the model's choice (assumptions 1 and 2). -/
def Obligations.WrittenWordsDecode : Prop :=
  decode defaultParams ⟨.txCmd, [0x03]⟩ = .ok .emit
    ∧ decode defaultParams ⟨.rxCmd, [0x05]⟩ = .ok (.halt .rx)
    ∧ decode defaultParams ⟨.txCmd, [0x07, 0xE8, 0x03, 0x00, 0x00]⟩ = .ok (.framedEmit 1000)
    ∧ decode defaultParams ⟨.rxCmd, [0x06, 0x01, 0x00]⟩ = .ok (.pktIn [0x01, 0x00])
    ∧ decode defaultParams ⟨.frame, [0x48, 0xF0, 0xFF, 0x2C, 0x08, 0x88, 0x13, 0, 0, 0x16, 0, 0x78, 0]⟩
      = .ok (.pe1 8 ⟨0x88, 0x13, 0, 0, 0x16, 0, 0x78, 0⟩)

/-- Decoding the record of a well-formed instruction gives the instruction back, for every instruction,
every operand and all parameters. The byte layout of a record is the model's choice (assumption 1). -/
def Obligations.DecodeOfEncode : Prop :=
  ∀ (c : Params) (i : Instr), WellFormed c i = true → decode c (encode c i) = .ok i

/-- R102, R323: a reserved code, a command on the wrong port and a framed command without P_FRAMED are
refused, each by name, on a block that is not halted. That the code is the low nibble of a record's first
byte and that the timestamp takes four bytes is the model's choice (assumption 1). -/
def Obligations.ReservedAndMisdirectedAreRefused : Prop :=
  ∀ (s : State) (p : Port) (head : Byte) (tail : List Byte) (rest : List Presented),
    s.port = ⟨p, head :: tail⟩ :: rest → p ≠ .frame → isHalted s p.block = false →
      (9 ≤ head.toNat % 16 → step s = .refused (.reservedCode (head.toNat % 16)))
        ∧ (p = .rxCmd → head.toNat % 16 ∈ [1, 2, 3, 4, 7] →
            step s = .refused (.misdirected (head.toNat % 16)))
        ∧ (p = .txCmd → head.toNat % 16 ∈ [6, 8] → step s = .refused (.misdirected (head.toNat % 16)))
        ∧ (s.cfg.framed = false → p = .txCmd → head.toNat % 16 = 7 → tail.length = 4 →
            step s = .refused .framedAbsent)
        ∧ (s.cfg.framed = false → p = .rxCmd → head.toNat % 16 = 8 → step s = .refused .framedAbsent)

/-- R105, R106, R180: the dispatch key, the fifteen fixed IDs in steps of 0x100 and PE16's, the rows the
variant holds, and the row an ID selects where no two active rows have one ID (assumption 5). -/
def Obligations.DispatchTableSelectsByWholeId : Prop :=
  (∀ (ext : Bool) (id : CanId),
      (dispatchKey ext id).toNat = (if ext then 2 ^ 29 else 0) + id.toNat)
    ∧ (∀ (c : Params) (r : PE), r ≠ .pe16 →
      idOf c r = some (BitVec.ofNat 29 (0x0CFFF048 + 0x100 * r.ctorIdx)))
    ∧ (∀ c : Params, idOf c .pe16 = c.pe16Id)
    ∧ (∀ (c : Params) (r : PE), isActive c r = true ↔
      (c.variant = .extended ∧ (r = .pe16 → c.pe16Id ≠ none))
        ∨ (c.variant = .basic ∧ r ∈ [PE.pe1, .pe2, .pe3, .pe5, .pe6, .pe9]))
    ∧ (∀ c : Params, (∀ r r', isActive c r = true → isActive c r' = true → idOf c r = idOf c r' → r = r') →
      ∀ (id : CanId) (r : PE),
      lookup c id = some r ↔ isActive c r = true ∧ idOf c r = some id)

/-! ## Control (45_control.md) -/

/-- R320, R450: RESET gives every register of its block the value 0 from any state, halted or not, leaves
the other block alone and produces no packet. -/
def Obligations.ResetCommandResetsItsBlock : Prop :=
  ∀ s : State,
    (∃ t, exec (.reset .tx) s = .next t ∧ t.tx.AllZero ∧ t.tx = State.reset.tx ∧ OnlyTx s t ∧ NoPacket s t
      ∧ t.out.answer = .done .ok)
    ∧ (∃ t, exec (.reset .rx) s = .next t ∧ t.rx.AllZero ∧ t.rx = State.reset.rx ∧ OnlyRx s t
      ∧ NoPacket s t ∧ t.out.answer = .done .ok)

/-- R321: HALT sets `halted` of its block and nothing else. -/
def Obligations.HaltCommandHaltsItsBlock : Prop :=
  ∀ s : State,
    (s.tx.halted = false → ∃ t, exec (.halt .tx) s = .next t ∧ t.tx = { s.tx with halted := true }
      ∧ OnlyTx s t ∧ NoPacket s t ∧ t.out.answer = .done .ok)
    ∧ (s.rx.halted = false → ∃ t, exec (.halt .rx) s = .next t ∧ t.rx = { s.rx with halted := true }
      ∧ OnlyRx s t ∧ NoPacket s t ∧ t.out.answer = .done .ok)

/-- R322, R403: every instruction but RESET is stuck on a halted block, and so is a record that decodes to
nothing; no check comes before this one. That each block has a halted register of its own and that a record of
no command, too, is stuck there are the model's inference (assumption 10), and which records decode to nothing
is its choice (assumption 1). -/
def Obligations.HaltedBlockIsStuck : Prop :=
  (∀ (i : Instr) (s : State), isHalted s i.block = true → (∀ b, i ≠ .reset b) →
      exec i s = .fault (.stuck i.block))
    ∧ (∀ (s : State) (p : Presented) (rest : List Presented) (r : Reject),
      s.port = p :: rest → decode s.cfg p = .error r → isHalted s p.port.block = true →
        step s = .fault (.stuck p.port.block))

/-- R102, R322, R410: a command that the host may send is never refused and never stuck: on a block that is
not halted, and with P_FRAMED where it is a framed one, it always answers a next state; from a host that keeps
the handshake it completes with an outcome code and is not held; and each interaction of the host table is
presented as the commands the table names. The host's functions and the record layout are the model's
(assumptions 1 and 8). -/
def Obligations.ConformingCommandsAnswer : Prop :=
  (∀ (i : Instr) (s : State), Accepts s i → ∃ t, exec i s = .next t
      ∧ (keepsHandshake s i = true → ∃ c, t.out.answer = .done c))
    ∧ ∀ (c : Params) (k : FrameForm) (ctl : Controller) (ts : Word32) (b : Block) (n : Reader) (bytes : List Byte),
      (HostEvent.poll k ctl).presents.map (decode c)
          = ([BufferNo.rxb0, .rxb1].filter ctl.isFull).map (fun x => .ok (k.instr (ctl.buffer x)))
        ∧ HostEvent.emissionTick.presents.map (decode c) = [.ok .emit]
        ∧ (HostEvent.framedEmissionTick ts).presents.map (decode c) = [.ok (.framedEmit ts)]
        ∧ HostEvent.transportCompletion.presents.map (decode c) = [.ok .txDone]
        ∧ (HostEvent.fatalInitFailure b).presents.map (decode c) = [.ok (.halt b)]
        ∧ (HostEvent.datagramReceived n bytes).presents.map (decode c) = [.ok (n.instr bytes)]
        ∧ (HostEvent.powerOn b).presents.map (decode c) = [.ok (.reset b)]

/-! ## Frame input (40_frame_input.md) -/

/-- R143, R146: the three checks of a frame in their order, the outcome code each gives, and that a
dropped frame changes nothing else. -/
def Obligations.FrameChecksInOrder : Prop :=
  ∀ (s : State) (ext : Bool) (id : CanId) (dlc : BitVec 4) (data : Payload), s.tx.halted = false →
    (ext = false →
      ∃ t, exec (.frameIn ext id dlc data) s = .next t ∧ OnlyAnswers (.done .ignStandard) s t)
    ∧ (ext = true → lookup s.cfg id = none →
      ∃ t, exec (.frameIn ext id dlc data) s = .next t ∧ OnlyAnswers (.done .ignUnknownId) s t)
    ∧ (∀ r, ext = true → lookup s.cfg id = some r → min dlc.toNat 8 < minDlc s.cfg r →
      ∃ t, exec (.frameIn ext id dlc data) s = .next t ∧ OnlyAnswers (.done .ignShortDlc) s t)

/-- R105, R140: FRAME_IN of an extended frame whose ID selects a message does what that message's row
does, in every state. -/
def Obligations.FrameInRunsTheSelectedMessage : Prop :=
  ∀ (s : State) (id : CanId) (dlc : BitVec 4) (data : Payload) (r : PE), lookup s.cfg id = some r →
    exec (.frameIn true id dlc data) s = exec (.ofKey r dlc data) s

/-- R140, R145, R181: a raw frame that passes the checks runs its routine: the writes take effect, `hraf` is
set, and nothing else changes. For FRAME_IN and for FRAME_IN_REGS. -/
def Obligations.RecognizedFramesComplete : Prop :=
  (∀ (s : State) (id : CanId) (dlc : BitVec 4) (data : Payload) (r : PE),
      s.tx.halted = false → lookup s.cfg id = some r → minDlc s.cfg r ≤ min dlc.toNat 8 →
      ∃ t, exec (.frameIn true id dlc data) s = .next t
        ∧ t.tx.snap = s.tx.snap.writeAll (routine s.cfg r (zeroFill (min dlc.toNat 8) data))
        ∧ Recognized (writtenFields s.cfg r) s t)
    ∧ (∀ (s : State) (sidh sidl eid8 eid0 dlcreg : Byte) (d : Payload) (r : PE),
      s.tx.halted = false → sidl.getLsbD 3 = true →
      lookup s.cfg (regsId sidh sidl eid8 eid0) = some r →
      minDlc s.cfg r ≤ min (dlcreg.toNat % 16) 8 →
      ∃ t, exec (.frameInRegs sidh sidl eid8 eid0 dlcreg d) s = .next t
        ∧ t.tx.snap = s.tx.snap.writeAll (routine s.cfg r (zeroFill (min (dlcreg.toNat % 16) 8) d))
        ∧ Recognized (writtenFields s.cfg r) s t)

/-- R147, R148, R149: FRAME_IN_REGS is FRAME_IN of the assembled frame: the extended flag from SIDL bit 3,
the 29-bit or the 11-bit ID from the four ID registers, the DLC from the low nibble. -/
def Obligations.FrameInRegsAssemblesTheFrame : Prop :=
  ∀ (sidh sidl eid8 eid0 dlcreg : Byte) (d : Payload),
    ∃ id : CanId,
      id.toNat = (if sidl.getLsbD 3
        then (sidh.toNat * 8 + sidl.toNat / 32) * 2 ^ 18 + (sidl.toNat % 4) * 2 ^ 16
          + eid8.toNat * 256 + eid0.toNat
        else sidh.toNat * 8 + sidl.toNat / 32)
      ∧ ∀ s : State, exec (.frameInRegs sidh sidl eid8 eid0 dlcreg d) s
          = exec (.frameIn (sidl.getLsbD 3) id (BitVec.ofNat 4 (dlcreg.toNat % 16)) d) s

/-- No accepted frame reads a byte at or above its DLC, so the zero fill changes no write, whatever the field
table: the inference that R142 marks as derived ("the fill is therefore unobservable through the snapshot"),
from R158. -/
def Obligations.ZeroFillIsUnobservable : Prop :=
  ∀ (c : Params) (r : PE) (dlc : BitVec 4) (d : Payload), minDlc c r ≤ clampDlc dlc →
    routine c r (zeroFill (clampDlc dlc) d) = routine c r d

/-- R80: the same frame twice leaves what it leaves once, whatever the field table. -/
def Obligations.SameFrameTwice : Prop :=
  ∀ (s t : State) (ext : Bool) (id : CanId) (dlc : BitVec 4) (data : Payload),
    exec (.frameIn ext id dlc data) s = .next t → exec (.frameIn ext id dlc data) t = .next t

/-- R161: what a frame writes depends on its operands and the parameters alone: from two states with the
same parameters, neither halted, the outputs agree, and each field is given the same value in both or kept
in both. -/
def Obligations.FrameReadsOnlyItsOperands : Prop :=
  ∀ (s s' : State) (ext : Bool) (id : CanId) (dlc : BitVec 4) (data : Payload),
    s.cfg = s'.cfg → s.tx.halted = false → s'.tx.halted = false →
    ∃ t t' : State, exec (.frameIn ext id dlc data) s = .next t
      ∧ exec (.frameIn ext id dlc data) s' = .next t' ∧ t.out = t'.out
      ∧ ((t.tx.hraf = true ∧ t'.tx.hraf = true) ∨ (t.tx.hraf = s.tx.hraf ∧ t'.tx.hraf = s'.tx.hraf))
      ∧ (∀ f, t.tx.snap.get f = t'.tx.snap.get f
        ∨ (t.tx.snap.get f = s.tx.snap.get f ∧ t'.tx.snap.get f = s'.tx.snap.get f))
      ∧ (t.tx.snap.rpm = t'.tx.snap.rpm
        ∨ (t.tx.snap.rpm = s.tx.snap.rpm ∧ t'.tx.snap.rpm = s'.tx.snap.rpm))

/-! ## The messages (41_an400_routines.md), with the default field table -/

/-- R182: PE1 writes engine speed, throttle, fuel open time and ignition angle. -/
def Obligations.Pe1WritesEngineFields : Prop :=
  ∀ (s : State) (dlc : BitVec 4) (d : Payload), Ready s .pe1 → OilFits s.cfg .pe1 dlc → 8 ≤ dlc.toNat →
    ∃ t, exec (.pe1 dlc d) s = .next t
      ∧ (s.cfg.distinctIds = true → exec (.frameIn true 0x0CFFF048 dlc d) s = .next t)
      ∧ Recognized ([.tpsPct, .fotMs, .ignDeg] ++ oilFields s.cfg .pe1) s t
      ∧ t.tx.snap.rpm = u16 d.d0 d.d1
      ∧ t.tx.snap.get .tpsPct = (s16 (u16 d.d2 d.d3) : ℚ) * (1 / 10)
      ∧ t.tx.snap.get .fotMs = (s16 (u16 d.d4 d.d5) : ℚ) * (1 / 10)
      ∧ t.tx.snap.get .ignDeg = (s16 (u16 d.d6 d.d7) : ℚ) * (1 / 10)

/-- R155, R183, R198: PE2 writes the two pressures, in kPa by the flag in bit 0 of byte 6, and lambda where
the policy lets it. -/
def Obligations.Pe2WritesPressuresAndLambda : Prop :=
  ∀ (s : State) (dlc : BitVec 4) (d : Payload), Ready s .pe2 → OilFits s.cfg .pe2 dlc → 7 ≤ dlc.toNat →
    ∃ t, exec (.pe2 dlc d) s = .next t
      ∧ (s.cfg.distinctIds = true → exec (.frameIn true 0x0CFFF148 dlc d) s = .next t)
      ∧ Recognized ([.baroKpa, .mapKpa, .lambda] ++ oilFields s.cfg .pe2) s t
      ∧ t.tx.snap.rpm = s.tx.snap.rpm
      ∧ (d.d6.toNat % 2 = 1 →
          t.tx.snap.get .baroKpa = ((u16 d.d0 d.d1).toNat : ℚ) * (1 / 100)
          ∧ t.tx.snap.get .mapKpa = ((u16 d.d2 d.d3).toNat : ℚ) * (1 / 100))
      ∧ (d.d6.toNat % 2 = 0 →
          t.tx.snap.get .baroKpa = ((u16 d.d0 d.d1).toNat : ℚ) * (1 / 100) * (689476 / 100000)
          ∧ t.tx.snap.get .mapKpa = ((u16 d.d2 d.d3).toNat : ℚ) * (1 / 100) * (689476 / 100000))
      ∧ (s.cfg.lambdaSource ≠ .pe9Only →
          t.tx.snap.get .lambda = ((u16 d.d4 d.d5).toNat : ℚ) * (1 / 100))
      ∧ (s.cfg.lambdaSource = .pe9Only → t.tx.snap.get .lambda = s.tx.snap.get .lambda)

/-- R157, R184, R200: PE3 writes the analog inputs 1 to 4, and, where P_OIL_SOURCE names PE3, the oil
pressure; in the BASIC variant, with P_OIL_SOURCE on PE3, the oil pressure alone, from a DLC of 2 on at the
default offset. -/
def Obligations.Pe3WritesAnalogInputsAndOil : Prop :=
  ∀ (s : State) (dlc : BitVec 4) (d : Payload), Ready s .pe3 → OilFits s.cfg .pe3 dlc →
    (s.cfg.variant = .extended → 8 ≤ dlc.toNat →
      ∃ t, exec (.pe3 dlc d) s = .next t
        ∧ (s.cfg.distinctIds = true → exec (.frameIn true 0x0CFFF248 dlc d) s = .next t)
        ∧ Recognized ([.ai1V, .ai2V, .ai3V, .ai4V] ++ oilFields s.cfg .pe3) s t
        ∧ t.tx.snap.rpm = s.tx.snap.rpm
        ∧ t.tx.snap.get .ai1V = (s16 (u16 d.d0 d.d1) : ℚ) * (1 / 1000)
        ∧ t.tx.snap.get .ai2V = (s16 (u16 d.d2 d.d3) : ℚ) * (1 / 1000)
        ∧ t.tx.snap.get .ai3V = (s16 (u16 d.d4 d.d5) : ℚ) * (1 / 1000)
        ∧ t.tx.snap.get .ai4V = (s16 (u16 d.d6 d.d7) : ℚ) * (1 / 1000)
        ∧ (s.cfg.oilSource.frame = .pe3 → OilPressure s.cfg d (t.tx.snap.get .oilPsi)))
    ∧ (s.cfg.variant = .basic → s.cfg.oilSource.frame = .pe3 →
      ∃ t, exec (.pe3 dlc d) s = .next t
        ∧ (s.cfg.distinctIds = true → exec (.frameIn true 0x0CFFF248 dlc d) s = .next t)
        ∧ Recognized [.oilPsi] s t
        ∧ t.tx.snap.rpm = s.tx.snap.rpm
        ∧ OilPressure s.cfg d (t.tx.snap.get .oilPsi))
    ∧ (s.cfg.oilSource = defaultOilSource → s.cfg.oilCal = defaultOilCal → 8 ≤ dlc.toNat →
      ∃ t, exec (.pe3 dlc d) s = .next t
        ∧ t.tx.snap.get .oilPsi = (s16 (u16 d.d0 d.d1) : ℚ) / 1000 * 25 - 25 / 2)

/-- R185: PE4 writes the analog inputs 5 to 8. -/
def Obligations.Pe4WritesAnalogInputs : Prop :=
  ∀ (s : State) (dlc : BitVec 4) (d : Payload), Ready s .pe4 → OilFits s.cfg .pe4 dlc → 8 ≤ dlc.toNat →
    ∃ t, exec (.pe4 dlc d) s = .next t
      ∧ (s.cfg.distinctIds = true → exec (.frameIn true 0x0CFFF348 dlc d) s = .next t)
      ∧ Recognized ([.ai5V, .ai6V, .ai7V, .ai8V] ++ oilFields s.cfg .pe4) s t
      ∧ t.tx.snap.rpm = s.tx.snap.rpm
      ∧ t.tx.snap.get .ai5V = (s16 (u16 d.d0 d.d1) : ℚ) * (1 / 1000)
      ∧ t.tx.snap.get .ai6V = (s16 (u16 d.d2 d.d3) : ℚ) * (1 / 1000)
      ∧ t.tx.snap.get .ai7V = (s16 (u16 d.d4 d.d5) : ℚ) * (1 / 1000)
      ∧ t.tx.snap.get .ai8V = (s16 (u16 d.d6 d.d7) : ℚ) * (1 / 1000)

/-- R186: PE5 writes the four wheel speeds. -/
def Obligations.Pe5WritesWheelSpeeds : Prop :=
  ∀ (s : State) (dlc : BitVec 4) (d : Payload), Ready s .pe5 → OilFits s.cfg .pe5 dlc → 8 ≤ dlc.toNat →
    ∃ t, exec (.pe5 dlc d) s = .next t
      ∧ (s.cfg.distinctIds = true → exec (.frameIn true 0x0CFFF448 dlc d) s = .next t)
      ∧ Recognized ([.wsFlHz, .wsFrHz, .wsBlHz, .wsBrHz] ++ oilFields s.cfg .pe5) s t
      ∧ t.tx.snap.rpm = s.tx.snap.rpm
      ∧ t.tx.snap.get .wsFlHz = ((u16 d.d0 d.d1).toNat : ℚ) * (1 / 5)
      ∧ t.tx.snap.get .wsFrHz = ((u16 d.d2 d.d3).toNat : ℚ) * (1 / 5)
      ∧ t.tx.snap.get .wsBlHz = ((u16 d.d4 d.d5).toNat : ℚ) * (1 / 5)
      ∧ t.tx.snap.get .wsBrHz = ((u16 d.d6 d.d7).toNat : ℚ) * (1 / 5)

/-- R156, R187: PE6 writes battery voltage and the two temperatures, in °C by the flag in bit 0 of
byte 6. -/
def Obligations.Pe6WritesBatteryAndTemperatures : Prop :=
  ∀ (s : State) (dlc : BitVec 4) (d : Payload), Ready s .pe6 → OilFits s.cfg .pe6 dlc → 7 ≤ dlc.toNat →
    ∃ t, exec (.pe6 dlc d) s = .next t
      ∧ (s.cfg.distinctIds = true → exec (.frameIn true 0x0CFFF548 dlc d) s = .next t)
      ∧ Recognized ([.battV, .airC, .coolantC] ++ oilFields s.cfg .pe6) s t
      ∧ t.tx.snap.rpm = s.tx.snap.rpm
      ∧ t.tx.snap.get .battV = (s16 (u16 d.d0 d.d1) : ℚ) * (1 / 100)
      ∧ (d.d6.toNat % 2 = 1 →
          t.tx.snap.get .airC = (s16 (u16 d.d2 d.d3) : ℚ) * (1 / 10)
          ∧ t.tx.snap.get .coolantC = (s16 (u16 d.d4 d.d5) : ℚ) * (1 / 10))
      ∧ (d.d6.toNat % 2 = 0 →
          t.tx.snap.get .airC = ((s16 (u16 d.d2 d.d3) : ℚ) * (1 / 10) - 32) * 5 / 9
          ∧ t.tx.snap.get .coolantC = ((s16 (u16 d.d4 d.d5) : ℚ) * (1 / 10) - 32) * 5 / 9)

/-- R188, R196: PE7 writes two thermistor temperatures, unconverted, and PE15 two fuel compensations; both
from a DLC of 4 on. -/
def Obligations.Pe7AndPe15WriteTwoFields : Prop :=
  ∀ (s : State) (dlc : BitVec 4) (d : Payload), 4 ≤ dlc.toNat →
    (Ready s .pe7 → OilFits s.cfg .pe7 dlc →
      ∃ t, exec (.pe7 dlc d) s = .next t
        ∧ (s.cfg.distinctIds = true → exec (.frameIn true 0x0CFFF648 dlc d) s = .next t)
        ∧ Recognized ([.therm5Temp, .therm7Temp] ++ oilFields s.cfg .pe7) s t
        ∧ t.tx.snap.rpm = s.tx.snap.rpm
        ∧ t.tx.snap.get .therm5Temp = (s16 (u16 d.d0 d.d1) : ℚ) * (1 / 10)
        ∧ t.tx.snap.get .therm7Temp = (s16 (u16 d.d2 d.d3) : ℚ) * (1 / 10))
    ∧ (Ready s .pe15 → OilFits s.cfg .pe15 dlc →
      ∃ t, exec (.pe15 dlc d) s = .next t
        ∧ (s.cfg.distinctIds = true → exec (.frameIn true 0x0CFFFE48 dlc d) s = .next t)
        ∧ Recognized ([.fuelCompBaroPct, .fuelCompMapPct] ++ oilFields s.cfg .pe15) s t
        ∧ t.tx.snap.rpm = s.tx.snap.rpm
        ∧ t.tx.snap.get .fuelCompBaroPct = (s16 (u16 d.d0 d.d1) : ℚ) * (1 / 10)
        ∧ t.tx.snap.get .fuelCompMapPct = (s16 (u16 d.d2 d.d3) : ℚ) * (1 / 10))

/-- R189: PE8 writes the four rates. -/
def Obligations.Pe8WritesRates : Prop :=
  ∀ (s : State) (dlc : BitVec 4) (d : Payload), Ready s .pe8 → OilFits s.cfg .pe8 dlc → 8 ≤ dlc.toNat →
    ∃ t, exec (.pe8 dlc d) s = .next t
      ∧ (s.cfg.distinctIds = true → exec (.frameIn true 0x0CFFF748 dlc d) s = .next t)
      ∧ Recognized ([.rpmRate, .tpsRate, .mapRate, .mafLoadRate] ++ oilFields s.cfg .pe8) s t
      ∧ t.tx.snap.rpm = s.tx.snap.rpm
      ∧ t.tx.snap.get .rpmRate = (s16 (u16 d.d0 d.d1) : ℚ)
      ∧ t.tx.snap.get .tpsRate = (s16 (u16 d.d2 d.d3) : ℚ)
      ∧ t.tx.snap.get .mapRate = (s16 (u16 d.d4 d.d5) : ℚ)
      ∧ t.tx.snap.get .mafLoadRate = (s16 (u16 d.d6 d.d7) : ℚ) * (1 / 10)

/-- R190, R198: PE9 writes lambda 2 and the target lambda, and lambda where the policy lets it. -/
def Obligations.Pe9WritesLambdas : Prop :=
  ∀ (s : State) (dlc : BitVec 4) (d : Payload), Ready s .pe9 → OilFits s.cfg .pe9 dlc → 6 ≤ dlc.toNat →
    ∃ t, exec (.pe9 dlc d) s = .next t
      ∧ (s.cfg.distinctIds = true → exec (.frameIn true 0x0CFFF848 dlc d) s = .next t)
      ∧ Recognized ([.lambda, .lambda2, .lambdaTarget] ++ oilFields s.cfg .pe9) s t
      ∧ t.tx.snap.rpm = s.tx.snap.rpm
      ∧ t.tx.snap.get .lambda2 = ((u16 d.d2 d.d3).toNat : ℚ) * (1 / 100)
      ∧ t.tx.snap.get .lambdaTarget = ((u16 d.d4 d.d5).toNat : ℚ) * (1 / 100)
      ∧ (s.cfg.lambdaSource ≠ .pe2Only →
          t.tx.snap.get .lambda = ((u16 d.d0 d.d1).toNat : ℚ) * (1 / 100))
      ∧ (s.cfg.lambdaSource = .pe2Only → t.tx.snap.get .lambda = s.tx.snap.get .lambda)

/-- R152, R191: PE10 writes the eight PWM duty cycles, one byte each. -/
def Obligations.Pe10WritesDutyCycles : Prop :=
  ∀ (s : State) (dlc : BitVec 4) (d : Payload), Ready s .pe10 → OilFits s.cfg .pe10 dlc → 8 ≤ dlc.toNat →
    ∃ t, exec (.pe10 dlc d) s = .next t
      ∧ (s.cfg.distinctIds = true → exec (.frameIn true 0x0CFFF948 dlc d) s = .next t)
      ∧ Recognized ([.pwmDutyPct1, .pwmDutyPct2, .pwmDutyPct3, .pwmDutyPct4, .pwmDutyPct5, .pwmDutyPct6,
          .pwmDutyPct7, .pwmDutyPct8] ++ oilFields s.cfg .pe10) s t
      ∧ t.tx.snap.rpm = s.tx.snap.rpm
      ∧ t.tx.snap.get .pwmDutyPct1 = (d.d0.toNat : ℚ) * (1 / 2)
      ∧ t.tx.snap.get .pwmDutyPct2 = (d.d1.toNat : ℚ) * (1 / 2)
      ∧ t.tx.snap.get .pwmDutyPct3 = (d.d2.toNat : ℚ) * (1 / 2)
      ∧ t.tx.snap.get .pwmDutyPct4 = (d.d3.toNat : ℚ) * (1 / 2)
      ∧ t.tx.snap.get .pwmDutyPct5 = (d.d4.toNat : ℚ) * (1 / 2)
      ∧ t.tx.snap.get .pwmDutyPct6 = (d.d5.toNat : ℚ) * (1 / 2)
      ∧ t.tx.snap.get .pwmDutyPct7 = (d.d6.toNat : ℚ) * (1 / 2)
      ∧ t.tx.snap.get .pwmDutyPct8 = (d.d7.toNat : ℚ) * (1 / 2)

/-- R192: PE11 writes slip and traction, from a DLC of 6 on. -/
def Obligations.Pe11WritesSlipAndTraction : Prop :=
  ∀ (s : State) (dlc : BitVec 4) (d : Payload), Ready s .pe11 → OilFits s.cfg .pe11 dlc → 6 ≤ dlc.toNat →
    ∃ t, exec (.pe11 dlc d) s = .next t
      ∧ (s.cfg.distinctIds = true → exec (.frameIn true 0x0CFFFA48 dlc d) s = .next t)
      ∧ Recognized ([.slipPct, .drivenWheelRoc, .tractionDesiredPct] ++ oilFields s.cfg .pe11) s t
      ∧ t.tx.snap.rpm = s.tx.snap.rpm
      ∧ t.tx.snap.get .slipPct = (s16 (u16 d.d0 d.d1) : ℚ) * (1 / 10)
      ∧ t.tx.snap.get .drivenWheelRoc = (s16 (u16 d.d2 d.d3) : ℚ) * (1 / 10)
      ∧ t.tx.snap.get .tractionDesiredPct = (s16 (u16 d.d4 d.d5) : ℚ) * (1 / 10)

/-- R193, R194: PE12 and PE13 each write four signed tenths. -/
def Obligations.Pe12AndPe13WriteFourTenths : Prop :=
  ∀ (s : State) (dlc : BitVec 4) (d : Payload), 8 ≤ dlc.toNat →
    (Ready s .pe12 → OilFits s.cfg .pe12 dlc →
      ∃ t, exec (.pe12 dlc d) s = .next t
        ∧ (s.cfg.distinctIds = true → exec (.frameIn true 0x0CFFFB48 dlc d) s = .next t)
        ∧ Recognized ([.drivenAvgWs, .nondrivenAvgWs, .ignCompDeg, .ignCutPct] ++ oilFields s.cfg .pe12) s t
        ∧ t.tx.snap.rpm = s.tx.snap.rpm
        ∧ t.tx.snap.get .drivenAvgWs = (s16 (u16 d.d0 d.d1) : ℚ) * (1 / 10)
        ∧ t.tx.snap.get .nondrivenAvgWs = (s16 (u16 d.d2 d.d3) : ℚ) * (1 / 10)
        ∧ t.tx.snap.get .ignCompDeg = (s16 (u16 d.d4 d.d5) : ℚ) * (1 / 10)
        ∧ t.tx.snap.get .ignCutPct = (s16 (u16 d.d6 d.d7) : ℚ) * (1 / 10))
    ∧ (Ready s .pe13 → OilFits s.cfg .pe13 dlc →
      ∃ t, exec (.pe13 dlc d) s = .next t
        ∧ (s.cfg.distinctIds = true → exec (.frameIn true 0x0CFFFC48 dlc d) s = .next t)
        ∧ Recognized ([.drivenWs1, .drivenWs2, .nondrivenWs1, .nondrivenWs2] ++ oilFields s.cfg .pe13) s t
        ∧ t.tx.snap.rpm = s.tx.snap.rpm
        ∧ t.tx.snap.get .drivenWs1 = (s16 (u16 d.d0 d.d1) : ℚ) * (1 / 10)
        ∧ t.tx.snap.get .drivenWs2 = (s16 (u16 d.d2 d.d3) : ℚ) * (1 / 10)
        ∧ t.tx.snap.get .nondrivenWs1 = (s16 (u16 d.d4 d.d5) : ℚ) * (1 / 10)
        ∧ t.tx.snap.get .nondrivenWs2 = (s16 (u16 d.d6 d.d7) : ℚ) * (1 / 10))

/-- R195, R197: PE14 and, where P_PE16_ID is not `none`, PE16 each write four signed tenths. -/
def Obligations.Pe14AndPe16WriteFourTenths : Prop :=
  ∀ (s : State) (dlc : BitVec 4) (d : Payload), 8 ≤ dlc.toNat →
    (Ready s .pe14 → OilFits s.cfg .pe14 dlc →
      ∃ t, exec (.pe14 dlc d) s = .next t
        ∧ (s.cfg.distinctIds = true → exec (.frameIn true 0x0CFFFD48 dlc d) s = .next t)
        ∧ Recognized ([.fuelCompAccelPct, .fuelCompStartPct, .fuelCompAirPct, .fuelCompCoolantPct] ++ oilFields s.cfg .pe14) s t
        ∧ t.tx.snap.rpm = s.tx.snap.rpm
        ∧ t.tx.snap.get .fuelCompAccelPct = (s16 (u16 d.d0 d.d1) : ℚ) * (1 / 10)
        ∧ t.tx.snap.get .fuelCompStartPct = (s16 (u16 d.d2 d.d3) : ℚ) * (1 / 10)
        ∧ t.tx.snap.get .fuelCompAirPct = (s16 (u16 d.d4 d.d5) : ℚ) * (1 / 10)
        ∧ t.tx.snap.get .fuelCompCoolantPct = (s16 (u16 d.d6 d.d7) : ℚ) * (1 / 10))
    ∧ (Ready s .pe16 → OilFits s.cfg .pe16 dlc →
      ∃ t, exec (.pe16 dlc d) s = .next t
        ∧ (∀ id, s.cfg.pe16Id = some id → s.cfg.distinctIds = true → exec (.frameIn true id dlc d) s = .next t)
        ∧ Recognized ([.ignCompAirDeg, .ignCompCoolantDeg, .ignCompBaroDeg, .ignCompMapDeg] ++ oilFields s.cfg .pe16) s t
        ∧ t.tx.snap.rpm = s.tx.snap.rpm
        ∧ t.tx.snap.get .ignCompAirDeg = (s16 (u16 d.d0 d.d1) : ℚ) * (1 / 10)
        ∧ t.tx.snap.get .ignCompCoolantDeg = (s16 (u16 d.d2 d.d3) : ℚ) * (1 / 10)
        ∧ t.tx.snap.get .ignCompBaroDeg = (s16 (u16 d.d4 d.d5) : ℚ) * (1 / 10)
        ∧ t.tx.snap.get .ignCompMapDeg = (s16 (u16 d.d6 d.d7) : ℚ) * (1 / 10))

/-- R198: the lambda policy never changes a MinDlc; with BOTH the last of PE2 and PE9 gives `lambda` its
value (R159); with one of them alone the other leaves `lambda` as it was, writes its other fields and sets
`hraf` as ever. -/
def Obligations.LambdaPolicyAndLastWriter : Prop :=
  (∀ (c : Params) (p : LambdaSource) (r : PE), minDlc { c with lambdaSource := p } r = minDlc c r)
    ∧ (∀ (s : State) (dlc2 dlc9 : BitVec 4) (d2 d9 : Payload),
      Ready s .pe2 → Ready s .pe9 → OilFits s.cfg .pe2 dlc2 → OilFits s.cfg .pe9 dlc9 →
      7 ≤ dlc2.toNat → 6 ≤ dlc9.toNat →
      (s.cfg.lambdaSource = .both →
        (∃ t u, exec (.pe2 dlc2 d2) s = .next t ∧ exec (.pe9 dlc9 d9) t = .next u
          ∧ u.tx.snap.get .lambda = ((u16 d9.d0 d9.d1).toNat : ℚ) * (1 / 100))
        ∧ (∃ t u, exec (.pe9 dlc9 d9) s = .next t ∧ exec (.pe2 dlc2 d2) t = .next u
          ∧ u.tx.snap.get .lambda = ((u16 d2.d4 d2.d5).toNat : ℚ) * (1 / 100)))
      ∧ (s.cfg.lambdaSource = .pe2Only →
        ∃ t, exec (.pe9 dlc9 d9) s = .next t ∧ t.tx.hraf = true
          ∧ t.tx.snap.get .lambda = s.tx.snap.get .lambda
          ∧ t.tx.snap.get .lambda2 = ((u16 d9.d2 d9.d3).toNat : ℚ) * (1 / 100)
          ∧ t.tx.snap.get .lambdaTarget = ((u16 d9.d4 d9.d5).toNat : ℚ) * (1 / 100))
      ∧ (s.cfg.lambdaSource = .pe9Only →
        ∃ t, exec (.pe2 dlc2 d2) s = .next t ∧ t.tx.hraf = true
          ∧ t.tx.snap.get .lambda = s.tx.snap.get .lambda))

/-- R199: with P_OIL_SOURCE = (PEn, k) away from its default, PEn needs a DLC of at least k + 2 and gives
the oil pressure, and no other message of the default table writes it, PE3 among them. Every other field of
every message, the named one's own and PE3's analog inputs among them, is written as it is with P_OIL_SOURCE at
its default (and in numbers by the statements of the messages). -/
def Obligations.OilSourceOverride : Prop :=
  ∀ (s : State) (r : PE) (dlc : BitVec 4) (d : Payload), s.tx.halted = false →
    s.cfg.fieldTable = defaultFieldTable → s.cfg.oilSource ≠ defaultOilSource →
    isActive s.cfg r = true → minDlc s.cfg r ≤ min dlc.toNat 8 →
    ∃ t, exec (.ofKey r dlc d) s = .next t ∧ t.out.answer = .done .ok ∧ OnlyTx s t ∧ t.tx.hraf = true
      ∧ (r = s.cfg.oilSource.frame → s.cfg.oilSource.offset + 2 ≤ minDlc s.cfg r)
      ∧ (r = s.cfg.oilSource.frame → OilPressure s.cfg d (t.tx.snap.get .oilPsi))
      ∧ (r ≠ s.cfg.oilSource.frame → t.tx.snap.get .oilPsi = s.tx.snap.get .oilPsi)
      ∧ (8 ≤ dlc.toNat →
        ∃ u, exec (.ofKey r dlc d) { s with cfg := { s.cfg with oilSource := defaultOilSource } } = .next u
          ∧ u.out.answer = .done .ok ∧ t.tx.snap.rpm = u.tx.snap.rpm
          ∧ ∀ f, f ≠ .oilPsi → t.tx.snap.get f = u.tx.snap.get f)

/-- R158, R180, R200, R201: the minimum DLC of every message, in the EXTENDED and in the BASIC variant; in BASIC
that of PE3 is 2, or k + 2 with P_OIL_SOURCE = (PE3, k), also where P_OIL_SOURCE names another message (assumption
12); and a frame of a message of the table with a DLC below its minimum, whatever the field table, changes
nothing. -/
def Obligations.MinimumDlcs : Prop :=
  (∀ c : Params, c.fieldTable = defaultFieldTable → c.oilSource = defaultOilSource →
    (c.variant = .extended →
      PE.all.map (minDlc c) = [8, 7, 8, 8, 8, 7, 4, 8, 6, 8, 6, 8, 8, 8, 4, 8])
    ∧ (c.variant = .basic →
      [PE.pe1, .pe2, .pe3, .pe5, .pe6, .pe9].map (minDlc c) = [8, 7, 2, 8, 7, 6]))
    ∧ (∀ c : Params, c.fieldTable = defaultFieldTable → c.variant = .basic →
      minDlc c .pe3 = if c.oilSource.frame = .pe3 then c.oilSource.offset + 2 else 2)
    ∧ ∀ (s : State) (r : PE) (dlc : BitVec 4) (d : Payload), s.tx.halted = false →
      isActive s.cfg r = true → min dlc.toNat 8 < minDlc s.cfg r →
      ∃ t, exec (.ofKey r dlc d) s = .next t ∧ OnlyAnswers (.done .ignShortDlc) s t

/-- R200, R202: a frame of a message that the variant or P_PE16_ID leaves out is an unknown ID, as is an
ID of no message; it changes nothing and does not set `hraf`. In BASIC the routines write only the basic fields,
and PE3 only the oil pressure, whatever the field table. -/
def Obligations.LeftOutMessagesAreUnknown : Prop :=
  (∀ (s : State) (r : PE) (dlc : BitVec 4) (d : Payload), s.tx.halted = false →
      (s.cfg.variant = .basic ∧ r ∉ [PE.pe1, .pe2, .pe3, .pe5, .pe6, .pe9])
        ∨ (r = .pe16 ∧ s.cfg.pe16Id = none) →
      ∃ t, exec (.ofKey r dlc d) s = .next t ∧ OnlyAnswers (.done .ignUnknownId) s t)
    ∧ (∀ (s : State) (id : CanId) (dlc : BitVec 4) (d : Payload), s.tx.halted = false →
      (∀ r, isActive s.cfg r = true → idOf s.cfg r ≠ some id) →
      ∃ t, exec (.frameIn true id dlc d) s = .next t ∧ OnlyAnswers (.done .ignUnknownId) s t)
    ∧ ∀ (c : Params) (r : PE) (d : Payload) (w : Write), c.variant = .basic → w ∈ routine c r d →
      ((∃ v, w = .rpm v) ∨ ∃ f v, w = .val f v ∧ f.isBasic = true)
        ∧ (r = .pe3 → ∃ v, w = .val .oilPsi v)

/-! ## The packet encoder (42_packet_encoder.md) -/

/-- R234, R235: EMIT is suppressed before the first recognized frame and held while a packet is
outstanding; it changes nothing either way. Presented again after a TX_DONE, a held one emits. -/
def Obligations.EmitIsSuppressedOrHeld : Prop :=
  ∀ s : State, s.tx.halted = false →
    (s.tx.hraf = false → ∃ t, exec .emit s = .next t ∧ OnlyAnswers (.done .suppressed) s t)
    ∧ (s.tx.hraf = true → s.cfg.txHandshake = true → s.tx.txBusy = true →
      ∃ t, exec .emit s = .next t ∧ OnlyAnswers .hold s t
        ∧ ∃ u v p, exec .txDone t = .next u ∧ exec .emit u = .next v ∧ v.out = ⟨.done .ok, some p, none⟩)

/-- R230, R233: EMIT emits the 22 bytes of R120: the incremented counter and each field's stored integer at
its offset; it counts, sets `tx_busy` with the handshake, and changes nothing else. -/
def Obligations.EmitPacksTheSnapshot : Prop :=
  ∀ s : State, MayEmit s →
    ∃ t p, exec .emit s = .next t ∧ Emitted p s t ∧ t.tx.seq = s.tx.seq + 1 ∧ t.tx.seq8 = s.tx.seq8
      ∧ p.length = 22 ∧ (pktWord p 0).toNat = (s.tx.seq.toNat + 1) % 65536
      ∧ ((pktWord p 2).toNat : Int) = quant (s.tx.snap.rpm.toNat : ℚ) 1 .u16
      ∧ ((pktWord p 4).toNat : Int) = quant (s.tx.snap.get .mapKpa) (1 / 10) .u16
      ∧ ((pktWord p 6).toNat : Int) = quant (s.tx.snap.get .tpsPct) (1 / 10) .u16
      ∧ s16 (pktWord p 8) = quant (s.tx.snap.get .oilPsi) (1 / 10) .i16
      ∧ s16 (pktWord p 10) = quant (s.tx.snap.get .coolantC) (1 / 10) .i16
      ∧ ((pktByte p 12).toNat : Int) = quant (s.tx.snap.get .lambda) (1 / 100) .u8
      ∧ ((pktByte p 13).toNat : Int) = quant (s.tx.snap.get .battV) (1 / 10) .u8
      ∧ ((pktWord p 14).toNat : Int) = quant (s.tx.snap.get .wsFlHz) (1 / 2) .u16
      ∧ ((pktWord p 16).toNat : Int) = quant (s.tx.snap.get .wsFrHz) (1 / 2) .u16
      ∧ ((pktWord p 18).toNat : Int) = quant (s.tx.snap.get .wsBlHz) (1 / 2) .u16
      ∧ ((pktWord p 20).toNat : Int) = quant (s.tx.snap.get .wsBrHz) (1 / 2) .u16

/-- R236: TX_DONE clears `tx_busy` with the handshake, is a no-op without it, and changes nothing else; on
a halted block it is stuck. -/
def Obligations.TxDoneClearsBusy : Prop :=
  ∀ s : State,
    (s.tx.halted = false →
      ∃ t, exec .txDone s = .next t ∧ OnlyTx s t ∧ NoPacket s t ∧ t.out.answer = .done .ok
        ∧ t.tx = { s.tx with txBusy := if s.cfg.txHandshake then false else s.tx.txBusy })
    ∧ (s.tx.halted = true → exec .txDone s = .fault (.stuck .tx))

/-- R239: a packet emitted and then decoded gives rpm exactly and each other field within half its step,
or the nearer bound outside the field's range. -/
def Obligations.PacketRoundTrip : Prop :=
  ∀ s r : State, MayEmit s → r.rx.halted = false →
    ∃ t p u, exec .emit s = .next t ∧ t.out.packet = some p ∧ exec (.pktIn p) r = .next u
      ∧ u.rx.snap.seq = t.tx.seq ∧ u.rx.snap.rpm = s.tx.snap.rpm
      ∧ Reconstructs (s.tx.snap.get .mapKpa) (1 / 10) .u16 u.rx.snap.mapKpa
      ∧ Reconstructs (s.tx.snap.get .tpsPct) (1 / 10) .u16 u.rx.snap.tpsPct
      ∧ Reconstructs (s.tx.snap.get .oilPsi) (1 / 10) .i16 u.rx.snap.oilPsi
      ∧ Reconstructs (s.tx.snap.get .coolantC) (1 / 10) .i16 u.rx.snap.coolantC
      ∧ Reconstructs (s.tx.snap.get .lambda) (1 / 100) .u8 u.rx.snap.lambda
      ∧ Reconstructs (s.tx.snap.get .battV) (1 / 10) .u8 u.rx.snap.battV
      ∧ Reconstructs (s.tx.snap.get .wsFlHz) (1 / 2) .u16 u.rx.snap.wsFlHz
      ∧ Reconstructs (s.tx.snap.get .wsFrHz) (1 / 2) .u16 u.rx.snap.wsFrHz
      ∧ Reconstructs (s.tx.snap.get .wsBlHz) (1 / 2) .u16 u.rx.snap.wsBlHz
      ∧ Reconstructs (s.tx.snap.get .wsBrHz) (1 / 2) .u16 u.rx.snap.wsBrHz

/-- R240, which the spec marks as derived: of everything that a frame of any message writes under the default
table, oil source and calibration, and every field of the packet that packs it, the quotient by the field's
scale is an exact tie for three fields only, and exactly there: battery voltage (a raw word that ends in the
decimal 5), manifold pressure with the kPa flag set (likewise) and oil pressure (a raw word of 2 modulo 4). -/
def Obligations.TiesReachableFromFrames : Prop :=
  ∀ (c : Params) (r : PE) (d : Payload),
    c.fieldTable = defaultFieldTable → c.oilSource = defaultOilSource → c.oilCal = defaultOilCal →
    ∀ row ∈ packetLayout,
      (∀ v, Write.rpm v ∈ routine c r d → row.source = .rpm → ¬ IsTie ((v.toNat : ℚ) / row.scale))
      ∧ ∀ f v, Write.val f v ∈ routine c r d → row.source = .val f →
        (IsTie (v / row.scale) ↔
          (f = .battV ∧ s16 (u16 d.d0 d.d1) % 10 = 5)
            ∨ (f = .mapKpa ∧ d.d6.toNat % 2 = 1 ∧ (u16 d.d2 d.d3).toNat % 10 = 5)
            ∨ (f = .oilPsi ∧ s16 (u16 d.d0 d.d1) % 4 = 2))

/-! ## The packet decoder (43_packet_decoder.md) -/

/-- R260, R261, R262: PKT_IN of 22 bytes writes every field of the RX snapshot from its bytes, whatever
they are, and changes nothing else of the machine. -/
def Obligations.PktInDecodesThePacket : Prop :=
  ∀ (s : State) (b : List Byte), s.rx.halted = false → b.length = 22 →
    ∃ t, exec (.pktIn b) s = .next t ∧ OnlyRx s t ∧ t.out.answer = .done .ok ∧ t.rx.valid = true
      ∧ t.rx.snap.seq = u16 (pktByte b 0) (pktByte b 1)
      ∧ t.rx.snap.rpm = u16 (pktByte b 2) (pktByte b 3)
      ∧ t.rx.snap.mapKpa = ((u16 (pktByte b 4) (pktByte b 5)).toNat : ℚ) * (1 / 10)
      ∧ t.rx.snap.tpsPct = ((u16 (pktByte b 6) (pktByte b 7)).toNat : ℚ) * (1 / 10)
      ∧ t.rx.snap.oilPsi = (s16 (u16 (pktByte b 8) (pktByte b 9)) : ℚ) * (1 / 10)
      ∧ t.rx.snap.coolantC = (s16 (u16 (pktByte b 10) (pktByte b 11)) : ℚ) * (1 / 10)
      ∧ t.rx.snap.lambda = ((pktByte b 12).toNat : ℚ) * (1 / 100)
      ∧ t.rx.snap.battV = ((pktByte b 13).toNat : ℚ) * (1 / 10)
      ∧ t.rx.snap.wsFlHz = ((u16 (pktByte b 14) (pktByte b 15)).toNat : ℚ) * (1 / 2)
      ∧ t.rx.snap.wsFrHz = ((u16 (pktByte b 16) (pktByte b 17)).toNat : ℚ) * (1 / 2)
      ∧ t.rx.snap.wsBlHz = ((u16 (pktByte b 18) (pktByte b 19)).toNat : ℚ) * (1 / 2)
      ∧ t.rx.snap.wsBrHz = ((u16 (pktByte b 20) (pktByte b 21)).toNat : ℚ) * (1 / 2)
      ∧ t.rx.fsnap = s.rx.fsnap ∧ t.rx.fvalid = s.rx.fvalid ∧ t.rx.fhaveLast = s.rx.fhaveLast
      ∧ t.rx.flastSeq8 = s.rx.flastSeq8 ∧ t.rx.halted = s.rx.halted

/-- R264: a datagram of any length but 22 is dropped and changes no register. -/
def Obligations.PktInDropsOtherLengths : Prop :=
  ∀ (s : State) (b : List Byte), s.rx.halted = false → b.length ≠ 22 →
    ∃ t, exec (.pktIn b) s = .next t ∧ OnlyRx s t ∧ t.rx = s.rx
      ∧ t.out = ⟨.done .dropLength, none, none⟩

/-- R263: the gap of an accepted packet is the counter difference less one, modulo 65536, after an earlier
packet and 0 for the first, and the counter becomes the last one; without P_RX_GAP there is no gap and the
gap registers stand. -/
def Obligations.PktInReportsTheGap : Prop :=
  ∀ (s : State) (b : List Byte), s.rx.halted = false → b.length = 22 →
    ∃ t, exec (.pktIn b) s = .next t
      ∧ (s.cfg.rxGap = true →
          t.rx.haveLast = true ∧ t.rx.lastSeq = u16 (pktByte b 0) (pktByte b 1)
          ∧ (s.rx.haveLast = false → t.out.gap = some 0)
          ∧ (s.rx.haveLast = true → ∃ g : Nat, t.out.gap = some g
              ∧ (g : Int) = (((u16 (pktByte b 0) (pktByte b 1)).toNat : Int)
                  - (s.rx.lastSeq.toNat : Int) - 1) % 65536))
      ∧ (s.cfg.rxGap = false →
          t.out.gap = none ∧ t.rx.haveLast = s.rx.haveLast ∧ t.rx.lastSeq = s.rx.lastSeq)

/-- R7, R83, R265: every datagram of a delivery the transport may make is accepted by the RX block, whatever
was lost, repeated or reordered: a 22-byte one by PKT_IN, a framed one by FRAMED_IN. With the 22-byte packets
alone (P_FRAMED false) that holds also of corrupted ones. -/
def Obligations.EveryDeliveredPacketIsAccepted : Prop :=
  ∀ (s : State) (delivered : List (List Byte)) (p : List Byte), Coherent s → s.rx.halted = false →
    p ∈ delivered →
    (s.cfg.framed = false → AdmissibleCorrupted s.emitted delivered → ReadsAs s .packet p)
    ∧ (Admissible s.emitted delivered →
      (p.length = 22 ∧ ReadsAs s .packet p) ∨ (p.length = 38 ∧ ReadsAs s .framed p))

/-! ## The framed variant (44_framed_variant.md) -/

/-- R290: without P_FRAMED the framed commands are refused. -/
def Obligations.FramedCommandsNeedFramed : Prop :=
  ∀ (s : State) (ts : Word32) (b : List Byte), s.cfg.framed = false →
    (s.tx.halted = false → exec (.framedEmit ts) s = .refused .framedAbsent)
    ∧ (s.rx.halted = false → exec (.framedIn b) s = .refused .framedAbsent)

/-- R292: FRAMED_EMIT is suppressed before the first recognized frame and held while a packet is
outstanding, as EMIT is. -/
def Obligations.FramedEmitIsSuppressedOrHeld : Prop :=
  ∀ (s : State) (ts : Word32), s.tx.halted = false → s.cfg.framed = true →
    (s.tx.hraf = false → ∃ t, exec (.framedEmit ts) s = .next t ∧ OnlyAnswers (.done .suppressed) s t)
    ∧ (s.tx.hraf = true → s.cfg.txHandshake = true → s.tx.txBusy = true →
      ∃ t, exec (.framedEmit ts) s = .next t ∧ OnlyAnswers .hold s t)

/-- R123, R124, R292: FRAMED_EMIT emits the 38 bytes: the header with the incremented 8-bit number, the
timestamp and each field's stored integer at its offset; `seq` stands. -/
def Obligations.FramedEmitPacksTheSnapshot : Prop :=
  ∀ (s : State) (ts : Word32), MayEmit s → s.cfg.framed = true →
    ∃ t p, exec (.framedEmit ts) s = .next t ∧ Emitted p s t
      ∧ t.tx.seq8 = s.tx.seq8 + 1 ∧ t.tx.seq = s.tx.seq ∧ p.length = 38
      ∧ pktByte p 0 = 0xAA ∧ pktByte p 1 = 0x01
      ∧ (pktByte p 2).toNat = (s.tx.seq8.toNat + 1) % 256 ∧ pktByte p 3 = 34
      ∧ (pktByte p 4).toNat + (pktByte p 5).toNat * 2 ^ 8 + (pktByte p 6).toNat * 2 ^ 16
          + (pktByte p 7).toNat * 2 ^ 24 = ts.toNat
      ∧ ((pktWord p 8).toNat : Int) = quant (s.tx.snap.rpm.toNat : ℚ) 1 .u16
      ∧ s16 (pktWord p 10) = quant (s.tx.snap.get .tpsPct) (1 / 10) .i16
      ∧ s16 (pktWord p 12) = quant (s.tx.snap.get .fotMs) (1 / 10) .i16
      ∧ s16 (pktWord p 14) = quant (s.tx.snap.get .ignDeg) (1 / 10) .i16
      ∧ ((pktWord p 16).toNat : Int) = quant (s.tx.snap.get .mapKpa) (1 / 100) .u16
      ∧ ((pktWord p 18).toNat : Int) = quant (s.tx.snap.get .baroKpa) (1 / 100) .u16
      ∧ ((pktWord p 20).toNat : Int) = quant (s.tx.snap.get .lambda) (1 / 1000) .u16
      ∧ s16 (pktWord p 22) = quant (s.tx.snap.get .oilPsi) (1 / 10) .i16
      ∧ s16 (pktWord p 24) = quant (s.tx.snap.get .battV) (1 / 100) .i16
      ∧ s16 (pktWord p 26) = quant (s.tx.snap.get .coolantC) (1 / 10) .i16
      ∧ s16 (pktWord p 28) = quant (s.tx.snap.get .airC) (1 / 10) .i16
      ∧ ((pktWord p 30).toNat : Int) = quant (s.tx.snap.get .wsFlHz) (1 / 10) .u16
      ∧ ((pktWord p 32).toNat : Int) = quant (s.tx.snap.get .wsFrHz) (1 / 10) .u16
      ∧ ((pktWord p 34).toNat : Int) = quant (s.tx.snap.get .wsBlHz) (1 / 10) .u16
      ∧ ((pktWord p 36).toNat : Int) = quant (s.tx.snap.get .wsBrHz) (1 / 10) .u16

/-- R293, R403: the checks of FRAMED_IN in their order; the first that fails gives the outcome code and
nothing else changes. -/
def Obligations.FramedInChecksInOrder : Prop :=
  ∀ (s : State) (b : List Byte), s.rx.halted = false → s.cfg.framed = true →
    ∀ c : Code,
      ((b.length < 4 ∧ c = .dropLength)
        ∨ (4 ≤ b.length ∧ pktByte b 0 ≠ 0xAA ∧ c = .dropPreamble)
        ∨ (4 ≤ b.length ∧ pktByte b 0 = 0xAA ∧ pktByte b 1 ≠ 0x01 ∧ c = .dropVersion)
        ∨ (4 ≤ b.length ∧ pktByte b 0 = 0xAA ∧ pktByte b 1 = 0x01 ∧ pktByte b 3 ≠ 34
          ∧ c = .dropDeclaredLength)
        ∨ (4 ≤ b.length ∧ pktByte b 0 = 0xAA ∧ pktByte b 1 = 0x01 ∧ pktByte b 3 = 34
          ∧ b.length ≠ 38 ∧ c = .dropLength)) →
      ∃ t, exec (.framedIn b) s = .next t ∧ OnlyRx s t ∧ t.rx = s.rx ∧ t.out = ⟨.done c, none, none⟩

/-- R293, R294: FRAMED_IN of a good datagram writes every framed register from its bytes, reports the gap
modulo 256, and leaves the 22-byte registers alone. -/
def Obligations.FramedInDecodesTheDatagram : Prop :=
  ∀ (s : State) (b : List Byte), s.rx.halted = false → s.cfg.framed = true → b.length = 38 →
    pktByte b 0 = 0xAA → pktByte b 1 = 0x01 → pktByte b 3 = 34 →
    ∃ t, exec (.framedIn b) s = .next t ∧ OnlyRx s t ∧ t.out.answer = .done .ok ∧ t.rx.fvalid = true
      ∧ t.rx.fsnap.seq8 = pktByte b 2
      ∧ t.rx.fsnap.tsMs.toNat = (pktByte b 4).toNat + (pktByte b 5).toNat * 2 ^ 8
          + (pktByte b 6).toNat * 2 ^ 16 + (pktByte b 7).toNat * 2 ^ 24
      ∧ t.rx.fsnap.rpm = pktWord b 8
      ∧ t.rx.fsnap.tpsPct = (s16 (pktWord b 10) : ℚ) * (1 / 10)
      ∧ t.rx.fsnap.fotMs = (s16 (pktWord b 12) : ℚ) * (1 / 10)
      ∧ t.rx.fsnap.ignDeg = (s16 (pktWord b 14) : ℚ) * (1 / 10)
      ∧ t.rx.fsnap.mapKpa = ((pktWord b 16).toNat : ℚ) * (1 / 100)
      ∧ t.rx.fsnap.baroKpa = ((pktWord b 18).toNat : ℚ) * (1 / 100)
      ∧ t.rx.fsnap.lambda = ((pktWord b 20).toNat : ℚ) * (1 / 1000)
      ∧ t.rx.fsnap.oilPsi = (s16 (pktWord b 22) : ℚ) * (1 / 10)
      ∧ t.rx.fsnap.battV = (s16 (pktWord b 24) : ℚ) * (1 / 100)
      ∧ t.rx.fsnap.coolantC = (s16 (pktWord b 26) : ℚ) * (1 / 10)
      ∧ t.rx.fsnap.airC = (s16 (pktWord b 28) : ℚ) * (1 / 10)
      ∧ t.rx.fsnap.wsFlHz = ((pktWord b 30).toNat : ℚ) * (1 / 10)
      ∧ t.rx.fsnap.wsFrHz = ((pktWord b 32).toNat : ℚ) * (1 / 10)
      ∧ t.rx.fsnap.wsBlHz = ((pktWord b 34).toNat : ℚ) * (1 / 10)
      ∧ t.rx.fsnap.wsBrHz = ((pktWord b 36).toNat : ℚ) * (1 / 10)
      ∧ t.rx.snap = s.rx.snap ∧ t.rx.valid = s.rx.valid ∧ t.rx.haveLast = s.rx.haveLast
      ∧ t.rx.lastSeq = s.rx.lastSeq ∧ t.rx.halted = s.rx.halted
      ∧ (s.cfg.rxGap = true →
          t.rx.fhaveLast = true ∧ t.rx.flastSeq8 = pktByte b 2
          ∧ (s.rx.fhaveLast = false → t.out.gap = some 0)
          ∧ (s.rx.fhaveLast = true → ∃ g : Nat, t.out.gap = some g
              ∧ (g : Int) = (((pktByte b 2).toNat : Int) - (s.rx.flastSeq8.toNat : Int) - 1) % 256))
      ∧ (s.cfg.rxGap = false →
          t.out.gap = none ∧ t.rx.fhaveLast = s.rx.fhaveLast ∧ t.rx.flastSeq8 = s.rx.flastSeq8)

/-- R124, R292, R293: a datagram emitted and then decoded gives the sequence number, the timestamp and rpm
exactly and each other field within half its step, or the nearer bound outside the field's range. -/
def Obligations.FramedRoundTrip : Prop :=
  ∀ (s r : State) (ts : Word32), MayEmit s → s.cfg.framed = true → r.rx.halted = false →
    r.cfg.framed = true →
    ∃ t p u, exec (.framedEmit ts) s = .next t ∧ t.out.packet = some p ∧ exec (.framedIn p) r = .next u
      ∧ u.out.answer = .done .ok
      ∧ u.rx.fsnap.seq8 = t.tx.seq8 ∧ u.rx.fsnap.tsMs = ts ∧ u.rx.fsnap.rpm = s.tx.snap.rpm
      ∧ Reconstructs (s.tx.snap.get .tpsPct) (1 / 10) .i16 u.rx.fsnap.tpsPct
      ∧ Reconstructs (s.tx.snap.get .fotMs) (1 / 10) .i16 u.rx.fsnap.fotMs
      ∧ Reconstructs (s.tx.snap.get .ignDeg) (1 / 10) .i16 u.rx.fsnap.ignDeg
      ∧ Reconstructs (s.tx.snap.get .mapKpa) (1 / 100) .u16 u.rx.fsnap.mapKpa
      ∧ Reconstructs (s.tx.snap.get .baroKpa) (1 / 100) .u16 u.rx.fsnap.baroKpa
      ∧ Reconstructs (s.tx.snap.get .lambda) (1 / 1000) .u16 u.rx.fsnap.lambda
      ∧ Reconstructs (s.tx.snap.get .oilPsi) (1 / 10) .i16 u.rx.fsnap.oilPsi
      ∧ Reconstructs (s.tx.snap.get .battV) (1 / 100) .i16 u.rx.fsnap.battV
      ∧ Reconstructs (s.tx.snap.get .coolantC) (1 / 10) .i16 u.rx.fsnap.coolantC
      ∧ Reconstructs (s.tx.snap.get .airC) (1 / 10) .i16 u.rx.fsnap.airC
      ∧ Reconstructs (s.tx.snap.get .wsFlHz) (1 / 10) .u16 u.rx.fsnap.wsFlHz
      ∧ Reconstructs (s.tx.snap.get .wsFrHz) (1 / 10) .u16 u.rx.fsnap.wsFrHz
      ∧ Reconstructs (s.tx.snap.get .wsBlHz) (1 / 10) .u16 u.rx.fsnap.wsBlHz
      ∧ Reconstructs (s.tx.snap.get .wsBrHz) (1 / 10) .u16 u.rx.fsnap.wsBrHz

/-! ## The front end (20_memory.md R82, 60_exceptions.md R409 to R413, 70_reset_and_hazards.md) -/

/-- R82, R409 to R414, R454 to R458: a poll presents buffer 0's frame before buffer 1's and nothing of an empty
buffer, and leaves both receive flags and both overflow bits clear and every other register as it was; from such
a controller the next poll presents the first two frames to arrive, in arrival order, and the others are lost; a
bring-up presents RESET, then HALT exactly when a mode or the radio is not confirmed; and a confirmed bring-up
leaves the timing values of R455, RXM = 11 on both buffers with their other bits as they were, and normal mode
requested; and a frame that the front end assembles has the buffer's payload bytes below the DLC and 0 from it on,
which for the block is the same as the raw registers. The front end is outside the block (R5); its functions are
the model's (assumptions 8, 19, 21 and 22), and the presented records have the model's layout (assumption 1). -/
def Obligations.FrontEndPresentsInOrder : Prop :=
  (∀ (c : Params) (k : FrameForm) (ctl : Controller),
      (ctl.poll k).1.map (decode c)
        = ((if ctl.canintf.toNat % 2 = 1 then [ctl.rxb0] else [])
            ++ (if ctl.canintf.toNat / 2 % 2 = 1 then [ctl.rxb1] else [])).map (fun b => .ok (k.instr b))
      ∧ (ctl.poll k).2.canintf = ctl.canintf &&& 0xFC ∧ (ctl.poll k).2.eflg = ctl.eflg &&& 0x3F
      ∧ ∀ r, r ≠ .canintf → r ≠ .eflg → (ctl.poll k).2.read r = ctl.read r)
    ∧ (∀ (c : Params) (k : FrameForm) (ctl : Controller) (arrivals : List (BufferNo × RxBuffer)),
      ctl.canintf.toNat % 4 = 0 → ctl.eflg.toNat / 64 = 0 →
      let full := arrivals.foldl (fun x a => x.arrive a.1 a.2) ctl
      (full.poll k).1.map (decode c) = (arrivals.take 2).map (fun a => .ok (k.instr a.2))
        ∧ (full.overflowed = true ↔ 2 < arrivals.length)
        ∧ (full.poll k).2.canintf = ctl.canintf ∧ (full.poll k).2.eflg = ctl.eflg)
    ∧ (∀ (c : Params) (a b : Byte) (radioOk : Bool),
      (bringUp a b radioOk).map (decode c)
          = .ok (.reset .tx) ::
            (if a.toNat / 32 = 4 ∧ b.toNat / 32 = 0 ∧ radioOk = true then [] else [.ok (.halt .tx)])
        ∧ (bringUpRx radioOk).map (decode c)
          = .ok (.reset .rx) :: (if radioOk = true then [] else [.ok (.halt .rx)]))
    ∧ (∀ b : RxBuffer,
      (∃ ext id data, FrameForm.assembled.instr b = .frameIn ext id (BitVec.ofNat 4 (b[4].toNat % 16)) data
        ∧ ∀ (k : Nat) (hk : k < 8), byteAt data k = if k < b[4].toNat % 16 then b[k + 5] else 0)
      ∧ ∀ s : State, exec (FrameForm.assembled.instr b) s = exec (FrameForm.registers.instr b) s)
    ∧ ∀ (fresh ctl : Controller) (a : Byte), a.toNat / 32 = 4 →
      let up := Controller.run fresh ctl (bringUpTransactions a)
      up.cnf1 = 0x41 ∧ up.cnf2 = 0xF1 ∧ up.cnf3 = 0x85 ∧ up.canctrl.toNat / 32 = 0
        ∧ up.canctrl.toNat % 32 = fresh.canctrl.toNat % 32
        ∧ up.rxb0Ctrl = fresh.rxb0Ctrl ||| 0x60 ∧ up.rxb1Ctrl = fresh.rxb1Ctrl ||| 0x60
        ∧ (bringUpTransactions a).map Spi.bytes
          = [[0xC0], [0x05, 0x0F, 0xE0, 0x80], [0x03, 0x0E], [0x02, 0x2A, 0x41], [0x02, 0x29, 0xF1],
              [0x02, 0x28, 0x85], [0x05, 0x60, 0x60, 0x60], [0x05, 0x70, 0x60, 0x60],
              [0x05, 0x0F, 0xE0, 0x00], [0x03, 0x0E]]
end

