-- ==== Sys2Proof/Laws/State.lean ====
section
/-! SUPPORT. One lemma per field per update of the state records, true by rfl, so that no proof unfolds a
record update; and reading a snapshot field after a write. -/

namespace Sys2Proof.Machine

section Withtx
variable (s : State) (t : Tx)

@[simp] theorem State.withTx_cfg : (s.withTx t).cfg = s.cfg := rfl
@[simp] theorem State.withTx_tx : (s.withTx t).tx = t := rfl
@[simp] theorem State.withTx_rx : (s.withTx t).rx = s.rx := rfl
@[simp] theorem State.withTx_port : (s.withTx t).port = s.port := rfl
@[simp] theorem State.withTx_out : (s.withTx t).out = s.out := rfl
@[simp] theorem State.withTx_emitted : (s.withTx t).emitted = s.emitted := rfl

end Withtx

section Withrx
variable (s : State) (r : Rx)

@[simp] theorem State.withRx_cfg : (s.withRx r).cfg = s.cfg := rfl
@[simp] theorem State.withRx_tx : (s.withRx r).tx = s.tx := rfl
@[simp] theorem State.withRx_rx : (s.withRx r).rx = r := rfl
@[simp] theorem State.withRx_port : (s.withRx r).port = s.port := rfl
@[simp] theorem State.withRx_out : (s.withRx r).out = s.out := rfl
@[simp] theorem State.withRx_emitted : (s.withRx r).emitted = s.emitted := rfl

end Withrx

section Withport
variable (s : State) (p : List Presented)

@[simp] theorem State.withPort_cfg : (s.withPort p).cfg = s.cfg := rfl
@[simp] theorem State.withPort_tx : (s.withPort p).tx = s.tx := rfl
@[simp] theorem State.withPort_rx : (s.withPort p).rx = s.rx := rfl
@[simp] theorem State.withPort_port : (s.withPort p).port = p := rfl
@[simp] theorem State.withPort_out : (s.withPort p).out = s.out := rfl
@[simp] theorem State.withPort_emitted : (s.withPort p).emitted = s.emitted := rfl

end Withport

section Ended
variable (s : State) (c : Code)

@[simp] theorem State.ended_cfg : (s.ended c).cfg = s.cfg := rfl
@[simp] theorem State.ended_tx : (s.ended c).tx = s.tx := rfl
@[simp] theorem State.ended_rx : (s.ended c).rx = s.rx := rfl
@[simp] theorem State.ended_port : (s.ended c).port = s.port := rfl
@[simp] theorem State.ended_out : (s.ended c).out = ⟨.done c, none, none⟩ := rfl
@[simp] theorem State.ended_emitted : (s.ended c).emitted = s.emitted := rfl

end Ended

section Held
variable (s : State)

@[simp] theorem State.held_cfg : (s.held).cfg = s.cfg := rfl
@[simp] theorem State.held_tx : (s.held).tx = s.tx := rfl
@[simp] theorem State.held_rx : (s.held).rx = s.rx := rfl
@[simp] theorem State.held_port : (s.held).port = s.port := rfl
@[simp] theorem State.held_out : (s.held).out = ⟨.hold, none, none⟩ := rfl
@[simp] theorem State.held_emitted : (s.held).emitted = s.emitted := rfl

end Held

section Endedwithgap
variable (s : State) (g : Option Nat)

@[simp] theorem State.endedWithGap_cfg : (s.endedWithGap g).cfg = s.cfg := rfl
@[simp] theorem State.endedWithGap_tx : (s.endedWithGap g).tx = s.tx := rfl
@[simp] theorem State.endedWithGap_rx : (s.endedWithGap g).rx = s.rx := rfl
@[simp] theorem State.endedWithGap_port : (s.endedWithGap g).port = s.port := rfl
@[simp] theorem State.endedWithGap_out : (s.endedWithGap g).out = ⟨.done .ok, none, g⟩ := rfl
@[simp] theorem State.endedWithGap_emitted : (s.endedWithGap g).emitted = s.emitted := rfl

end Endedwithgap

section Emits
variable (s : State) (p : List Byte)

@[simp] theorem State.emits_cfg : (s.emits p).cfg = s.cfg := rfl
@[simp] theorem State.emits_tx : (s.emits p).tx = s.tx := rfl
@[simp] theorem State.emits_rx : (s.emits p).rx = s.rx := rfl
@[simp] theorem State.emits_port : (s.emits p).port = s.port := rfl
@[simp] theorem State.emits_out : (s.emits p).out = ⟨.done .ok, some p, none⟩ := rfl
@[simp] theorem State.emits_emitted : (s.emits p).emitted = s.emitted ++ [p] := rfl

end Emits

section Recognize
variable (t : Tx) (n : Snapshot)

@[simp] theorem Tx.recognize_snap : (t.recognize n).snap = n := rfl
@[simp] theorem Tx.recognize_hraf : (t.recognize n).hraf = true := rfl
@[simp] theorem Tx.recognize_seq : (t.recognize n).seq = t.seq := rfl
@[simp] theorem Tx.recognize_seq8 : (t.recognize n).seq8 = t.seq8 := rfl
@[simp] theorem Tx.recognize_txBusy : (t.recognize n).txBusy = t.txBusy := rfl
@[simp] theorem Tx.recognize_halted : (t.recognize n).halted = t.halted := rfl

end Recognize

section Setbusy
variable (t : Tx) (h v : Bool)

@[simp] theorem Tx.setBusy_snap : (t.setBusy h v).snap = t.snap := rfl
@[simp] theorem Tx.setBusy_hraf : (t.setBusy h v).hraf = t.hraf := rfl
@[simp] theorem Tx.setBusy_seq : (t.setBusy h v).seq = t.seq := rfl
@[simp] theorem Tx.setBusy_seq8 : (t.setBusy h v).seq8 = t.seq8 := rfl
@[simp] theorem Tx.setBusy_txBusy : (t.setBusy h v).txBusy = (if h then v else t.txBusy) := rfl
@[simp] theorem Tx.setBusy_halted : (t.setBusy h v).halted = t.halted := rfl

end Setbusy

section Halt
variable (t : Tx)

@[simp] theorem Tx.halt_snap : (t.halt).snap = t.snap := rfl
@[simp] theorem Tx.halt_hraf : (t.halt).hraf = t.hraf := rfl
@[simp] theorem Tx.halt_seq : (t.halt).seq = t.seq := rfl
@[simp] theorem Tx.halt_seq8 : (t.halt).seq8 = t.seq8 := rfl
@[simp] theorem Tx.halt_txBusy : (t.halt).txBusy = t.txBusy := rfl
@[simp] theorem Tx.halt_halted : (t.halt).halted = true := rfl

end Halt

section Setseq
variable (t : Tx) (n : Word16)

@[simp] theorem Tx.setSeq_snap : (t.setSeq n).snap = t.snap := rfl
@[simp] theorem Tx.setSeq_hraf : (t.setSeq n).hraf = t.hraf := rfl
@[simp] theorem Tx.setSeq_seq : (t.setSeq n).seq = n := rfl
@[simp] theorem Tx.setSeq_seq8 : (t.setSeq n).seq8 = t.seq8 := rfl
@[simp] theorem Tx.setSeq_txBusy : (t.setSeq n).txBusy = t.txBusy := rfl
@[simp] theorem Tx.setSeq_halted : (t.setSeq n).halted = t.halted := rfl

end Setseq

section Setseq8
variable (t : Tx) (n : Byte)

@[simp] theorem Tx.setSeq8_snap : (t.setSeq8 n).snap = t.snap := rfl
@[simp] theorem Tx.setSeq8_hraf : (t.setSeq8 n).hraf = t.hraf := rfl
@[simp] theorem Tx.setSeq8_seq : (t.setSeq8 n).seq = t.seq := rfl
@[simp] theorem Tx.setSeq8_seq8 : (t.setSeq8 n).seq8 = n := rfl
@[simp] theorem Tx.setSeq8_txBusy : (t.setSeq8 n).txBusy = t.txBusy := rfl
@[simp] theorem Tx.setSeq8_halted : (t.setSeq8 n).halted = t.halted := rfl

end Setseq8

section Halt
variable (r : Rx)

@[simp] theorem Rx.halt_snap : (r.halt).snap = r.snap := rfl
@[simp] theorem Rx.halt_valid : (r.halt).valid = r.valid := rfl
@[simp] theorem Rx.halt_haveLast : (r.halt).haveLast = r.haveLast := rfl
@[simp] theorem Rx.halt_lastSeq : (r.halt).lastSeq = r.lastSeq := rfl
@[simp] theorem Rx.halt_fsnap : (r.halt).fsnap = r.fsnap := rfl
@[simp] theorem Rx.halt_fvalid : (r.halt).fvalid = r.fvalid := rfl
@[simp] theorem Rx.halt_fhaveLast : (r.halt).fhaveLast = r.fhaveLast := rfl
@[simp] theorem Rx.halt_flastSeq8 : (r.halt).flastSeq8 = r.flastSeq8 := rfl
@[simp] theorem Rx.halt_halted : (r.halt).halted = true := rfl

end Halt

section Accept
variable (r : Rx) (n : RxSnapshot)

@[simp] theorem Rx.accept_snap : (r.accept n).snap = n := rfl
@[simp] theorem Rx.accept_valid : (r.accept n).valid = true := rfl
@[simp] theorem Rx.accept_haveLast : (r.accept n).haveLast = r.haveLast := rfl
@[simp] theorem Rx.accept_lastSeq : (r.accept n).lastSeq = r.lastSeq := rfl
@[simp] theorem Rx.accept_fsnap : (r.accept n).fsnap = r.fsnap := rfl
@[simp] theorem Rx.accept_fvalid : (r.accept n).fvalid = r.fvalid := rfl
@[simp] theorem Rx.accept_fhaveLast : (r.accept n).fhaveLast = r.fhaveLast := rfl
@[simp] theorem Rx.accept_flastSeq8 : (r.accept n).flastSeq8 = r.flastSeq8 := rfl
@[simp] theorem Rx.accept_halted : (r.accept n).halted = r.halted := rfl

end Accept

section Setlast
variable (r : Rx) (g : Bool) (c : Word16)

@[simp] theorem Rx.setLast_snap : (r.setLast g c).snap = r.snap := rfl
@[simp] theorem Rx.setLast_valid : (r.setLast g c).valid = r.valid := rfl
@[simp] theorem Rx.setLast_haveLast : (r.setLast g c).haveLast = (if g then true else r.haveLast) := rfl
@[simp] theorem Rx.setLast_lastSeq : (r.setLast g c).lastSeq = (if g then c else r.lastSeq) := rfl
@[simp] theorem Rx.setLast_fsnap : (r.setLast g c).fsnap = r.fsnap := rfl
@[simp] theorem Rx.setLast_fvalid : (r.setLast g c).fvalid = r.fvalid := rfl
@[simp] theorem Rx.setLast_fhaveLast : (r.setLast g c).fhaveLast = r.fhaveLast := rfl
@[simp] theorem Rx.setLast_flastSeq8 : (r.setLast g c).flastSeq8 = r.flastSeq8 := rfl
@[simp] theorem Rx.setLast_halted : (r.setLast g c).halted = r.halted := rfl

end Setlast

section Acceptframed
variable (r : Rx) (n : FramedSnapshot)

@[simp] theorem Rx.acceptFramed_snap : (r.acceptFramed n).snap = r.snap := rfl
@[simp] theorem Rx.acceptFramed_valid : (r.acceptFramed n).valid = r.valid := rfl
@[simp] theorem Rx.acceptFramed_haveLast : (r.acceptFramed n).haveLast = r.haveLast := rfl
@[simp] theorem Rx.acceptFramed_lastSeq : (r.acceptFramed n).lastSeq = r.lastSeq := rfl
@[simp] theorem Rx.acceptFramed_fsnap : (r.acceptFramed n).fsnap = n := rfl
@[simp] theorem Rx.acceptFramed_fvalid : (r.acceptFramed n).fvalid = true := rfl
@[simp] theorem Rx.acceptFramed_fhaveLast : (r.acceptFramed n).fhaveLast = r.fhaveLast := rfl
@[simp] theorem Rx.acceptFramed_flastSeq8 : (r.acceptFramed n).flastSeq8 = r.flastSeq8 := rfl
@[simp] theorem Rx.acceptFramed_halted : (r.acceptFramed n).halted = r.halted := rfl

end Acceptframed

section Setframedlast
variable (r : Rx) (g : Bool) (c : Byte)

@[simp] theorem Rx.setFramedLast_snap : (r.setFramedLast g c).snap = r.snap := rfl
@[simp] theorem Rx.setFramedLast_valid : (r.setFramedLast g c).valid = r.valid := rfl
@[simp] theorem Rx.setFramedLast_haveLast : (r.setFramedLast g c).haveLast = r.haveLast := rfl
@[simp] theorem Rx.setFramedLast_lastSeq : (r.setFramedLast g c).lastSeq = r.lastSeq := rfl
@[simp] theorem Rx.setFramedLast_fsnap : (r.setFramedLast g c).fsnap = r.fsnap := rfl
@[simp] theorem Rx.setFramedLast_fvalid : (r.setFramedLast g c).fvalid = r.fvalid := rfl
@[simp] theorem Rx.setFramedLast_fhaveLast : (r.setFramedLast g c).fhaveLast = (if g then true else r.fhaveLast) := rfl
@[simp] theorem Rx.setFramedLast_flastSeq8 : (r.setFramedLast g c).flastSeq8 = (if g then c else r.flastSeq8) := rfl
@[simp] theorem Rx.setFramedLast_halted : (r.setFramedLast g c).halted = r.halted := rfl

end Setframedlast

section Fields
variable (s : Snapshot)

@[simp] theorem Snapshot.set_rpm (f : Field) (v : ℚ) : (s.set f v).rpm = s.rpm := rfl

@[simp] theorem Snapshot.write_rpm_rpm (v : Word16) : (s.write (.rpm v)).rpm = v := rfl

@[simp] theorem Snapshot.write_rpm_get (v : Word16) (f : Field) : (s.write (.rpm v)).get f = s.get f := rfl

@[simp] theorem Snapshot.write_val (f : Field) (v : ℚ) : s.write (.val f v) = s.set f v := rfl

end Fields

/-- Different fields have different places. -/
theorem Field.idx_inj {f g : Field} : f.idx = g.idx ↔ f = g := by
  constructor
  · intro h
    have h' : f.ctorIdx = g.ctorIdx := congrArg Fin.val h
    have ofIdx : ∀ e : Field, Field.ofNat e.ctorIdx = e := by intro e; cases e <;> rfl
    rw [← ofIdx f, ← ofIdx g, h']
  · exact congrArg Field.idx

/-- A field reads as the last value written to it, and every other field as before. -/
theorem Snapshot.get_set (s : Snapshot) (f g : Field) (v : ℚ) :
    (s.set f v).get g = if f = g then v else s.get g := by
  unfold Snapshot.set Snapshot.get
  by_cases h : f = g
  · subst h
    simp
  · have hne : f.idx.val ≠ g.idx.val := fun e => h (Field.idx_inj.mp (Fin.ext e))
    simp [h, hne]

@[simp] theorem Snapshot.get_set_self (s : Snapshot) (f : Field) (v : ℚ) : (s.set f v).get f = v := by
  simp [Snapshot.get_set]

theorem Snapshot.get_set_ne (s : Snapshot) {f g : Field} (h : f ≠ g) (v : ℚ) :
    (s.set f v).get g = s.get g := by
  simp [Snapshot.get_set, h]

@[simp] theorem Snapshot.get_zero (f : Field) : Snapshot.zero.get f = 0 := by
  simp [Snapshot.zero, Snapshot.get]

@[simp] theorem Snapshot.zero_rpm : Snapshot.zero.rpm = 0 := rfl

/-- Two snapshots with the same `rpm` and the same value in every field are equal. -/
theorem Snapshot.ext_get {s t : Snapshot} (hr : s.rpm = t.rpm) (h : ∀ f, s.get f = t.get f) : s = t := by
  cases s with
  | mk r v =>
    cases t with
    | mk r' v' =>
      subst hr
      congr 1
      refine Vector.ext fun i hi => ?_
      have key : ∃ f : Field, f.idx.val = i := by
        refine ⟨Field.ofNat i, ?_⟩
        interval_cases i <;> decide
      obtain ⟨f, rfl⟩ := key
      exact h f

end Sys2Proof.Machine
end

