-- ==== Sys2Proof/Laws/Ops.lean ====
section
/-! SUPPORT. For each shared operation one lemma that says all it can do when it answers a next state, and
for each form of a frame the operation that runs it. -/

namespace Sys2Proof.Machine

@[simp] theorem isHalted_tx (s : State) : isHalted s .tx = s.tx.halted := rfl

@[simp] theorem isHalted_rx (s : State) : isHalted s .rx = s.rx.halted := rfl

/-- A guarded command goes on exactly when its block is not halted. -/
theorem unlessHalted_next {b : Block} {s t : State} {k : Result} :
    unlessHalted b s k = .next t ↔ isHalted s b = false ∧ k = .next t := by
  unfold unlessHalted
  cases isHalted s b <;> simp

/-- On a block that runs, the guard is nothing. -/
@[simp] theorem unlessHalted_running {b : Block} {s : State} (h : isHalted s b = false) (k : Result) :
    unlessHalted b s k = k := by simp [unlessHalted, h]

/-- On a halted block the command is stuck. -/
@[simp] theorem unlessHalted_halted {b : Block} {s : State} (h : isHalted s b = true) (k : Result) :
    unlessHalted b s k = .fault (.stuck b) := by simp [unlessHalted, h]

@[simp] theorem drop_next (c : Code) (s : State) : drop c s = .next (s.ended c) := rfl

/-- The state after a recognized frame of message `r`. -/
abbrev recognizedState (r : PE) (dlc : BitVec 4) (data : Payload) (s : State) : State :=
  (s.withTx (s.tx.recognize
    (s.tx.snap.writeAll (routine s.cfg r (zeroFill (clampDlc dlc) data))))).ended .ok

/-- A routine always answers a next state: the short frame's or the recognized one's. -/
theorem runRoutine_eq (r : PE) (dlc : BitVec 4) (data : Payload) (s : State) :
    runRoutine r dlc data s =
      .next (if clampDlc dlc < minDlc s.cfg r then s.ended .ignShortDlc
        else recognizedState r dlc data s) := by
  unfold runRoutine
  by_cases h : clampDlc dlc < minDlc s.cfg r <;> simp [h]

/-- All a frame with a message's key can do. -/
theorem keyedFrame_next {r : PE} {dlc : BitVec 4} {data : Payload} {s t : State}
    (h : keyedFrame r dlc data s = .next t) :
    s.tx.halted = false
      ∧ ((isActive s.cfg r = false ∧ t = s.ended .ignUnknownId)
        ∨ (isActive s.cfg r = true ∧ clampDlc dlc < minDlc s.cfg r ∧ t = s.ended .ignShortDlc)
        ∨ (isActive s.cfg r = true ∧ minDlc s.cfg r ≤ clampDlc dlc
          ∧ t = recognizedState r dlc data s)) := by
  obtain ⟨hh, h⟩ := unlessHalted_next.mp h
  refine ⟨hh, ?_⟩
  cases ha : isActive s.cfg r
  · simp [ha] at h
    exact .inl ⟨rfl, h.symm⟩
  · simp only [ha, runRoutine_eq, Host.Outcome.next.injEq] at h
    by_cases hm : clampDlc dlc < minDlc s.cfg r
    · rw [if_pos hm] at h
      exact .inr (.inl ⟨rfl, hm, h.symm⟩)
    · rw [if_neg hm] at h
      exact .inr (.inr ⟨rfl, by omega, h.symm⟩)

/-- All a raw frame can do. -/
theorem frame_next {ext : Bool} {id : CanId} {dlc : BitVec 4} {data : Payload} {s t : State}
    (h : frame ext id dlc data s = .next t) :
    s.tx.halted = false
      ∧ ((ext = false ∧ t = s.ended .ignStandard)
        ∨ (ext = true ∧ lookup s.cfg id = none ∧ t = s.ended .ignUnknownId)
        ∨ (ext = true ∧ ∃ r, lookup s.cfg id = some r ∧ clampDlc dlc < minDlc s.cfg r
          ∧ t = s.ended .ignShortDlc)
        ∨ (ext = true ∧ ∃ r, lookup s.cfg id = some r ∧ minDlc s.cfg r ≤ clampDlc dlc
          ∧ t = recognizedState r dlc data s)) := by
  obtain ⟨hh, h⟩ := unlessHalted_next.mp h
  refine ⟨hh, ?_⟩
  cases ext
  · simp at h
    exact .inl ⟨rfl, h.symm⟩
  · cases hl : lookup s.cfg id with
    | none =>
      simp only [hl, drop_next, Host.Outcome.next.injEq] at h
      exact .inr (.inl ⟨rfl, rfl, h.symm⟩)
    | some r =>
      simp only [hl, runRoutine_eq, Host.Outcome.next.injEq] at h
      by_cases hm : clampDlc dlc < minDlc s.cfg r
      · rw [if_pos hm] at h
        exact .inr (.inr (.inl ⟨rfl, r, rfl, hm, h.symm⟩))
      · rw [if_neg hm] at h
        exact .inr (.inr (.inr ⟨rfl, r, rfl, by omega, h.symm⟩))

/-- All an emission behind the gate and the hold can do. -/
theorem gated_next {s t : State} {k : Result} (h : gated s k = .next t) :
    (s.tx.hraf = false ∧ t = s.ended .suppressed)
      ∨ (s.tx.hraf = true ∧ s.cfg.txHandshake = true ∧ s.tx.txBusy = true ∧ t = s.held)
      ∨ (s.tx.hraf = true ∧ (s.cfg.txHandshake = false ∨ s.tx.txBusy = false) ∧ k = .next t) := by
  unfold gated at h
  cases hg : s.tx.hraf
  · simp [hg] at h
    exact .inl ⟨rfl, h.symm⟩
  · simp only [hg] at h
    cases hp : s.cfg.txHandshake <;> cases hb : s.tx.txBusy <;> simp [hp, hb] at h
    · exact .inr (.inr ⟨rfl, .inl rfl, h⟩)
    · exact .inr (.inr ⟨rfl, .inl rfl, h⟩)
    · exact .inr (.inr ⟨rfl, .inr rfl, h⟩)
    · exact .inr (.inl ⟨rfl, rfl, rfl, h.symm⟩)

/-- A framed command goes on exactly when P_FRAMED is true. -/
theorem ifFramed_next {s t : State} {k : Result} :
    ifFramed s k = .next t ↔ s.cfg.framed = true ∧ k = .next t := by
  unfold ifFramed
  cases s.cfg.framed <;> simp

/-- A record that decodes to nothing answers no next state. -/
theorem rejected_not_next {p : Presented} {r : Reject} {s t : State} : rejected p r s ≠ .next t := by
  intro h
  obtain ⟨-, h⟩ := unlessHalted_next.mp h
  cases r <;> simp at h

/-- The frame of message `r` runs `r`'s keyed frame, whichever message it is. -/
theorem exec_ofKey (r : PE) (dlc : BitVec 4) (data : Payload) (s : State) :
    exec (.ofKey r dlc data) s = keyedFrame r dlc data s := by
  cases r <;> rfl

/-- A byte of a zero-filled payload (R142). -/
theorem byteAt_zeroFill (dlc : Nat) (d : Payload) (k : Nat) :
    byteAt (zeroFill dlc d) k = if k < dlc then byteAt d k else 0 := by
  unfold byteAt zeroFill
  split <;> simp

/-- Filling twice is filling once (R142, R458). -/
@[simp] theorem zeroFill_zeroFill (dlc : Nat) (d : Payload) : zeroFill dlc (zeroFill dlc d) = zeroFill dlc d := by
  simp only [zeroFill, Payload.mk.injEq]
  refine ⟨?_, ?_, ?_, ?_, ?_, ?_, ?_, ?_⟩ <;> split <;> rfl

/-- FRAME_IN and FRAME_IN_REGS run a raw frame. -/
theorem exec_frameInRegs (sidh sidl eid8 eid0 dlcreg : Byte) (d : Payload) (s : State) :
    exec (.frameInRegs sidh sidl eid8 eid0 dlcreg d) s =
      frame (regsExt sidl) (regsId sidh sidl eid8 eid0) (regsDlc dlcreg) d s := rfl

/-- What EMIT emits once gate and hold let it. -/
abbrev emittedState (s : State) : State :=
  (s.withTx ((s.tx.setSeq (s.tx.seq + 1)).setBusy s.cfg.txHandshake true)).emits
    (packetOf (s.tx.seq + 1) s.tx.snap)

/-- All EMIT can do. -/
theorem execEmit_next {s t : State} (h : execEmit s = .next t) :
    s.tx.halted = false
      ∧ ((s.tx.hraf = false ∧ t = s.ended .suppressed)
        ∨ (s.tx.hraf = true ∧ s.cfg.txHandshake = true ∧ s.tx.txBusy = true ∧ t = s.held)
        ∨ (s.tx.hraf = true ∧ (s.cfg.txHandshake = false ∨ s.tx.txBusy = false)
          ∧ t = emittedState s)) := by
  obtain ⟨hh, h⟩ := unlessHalted_next.mp h
  refine ⟨hh, ?_⟩
  rcases gated_next h with h | h | ⟨a, b, c⟩
  · exact .inl h
  · exact .inr (.inl h)
  · exact .inr (.inr ⟨a, b, (Host.Outcome.next.inj c).symm⟩)

/-- All PKT_IN can do. -/
theorem execPktIn_next {bytes : List Byte} {s t : State} (h : execPktIn bytes s = .next t) :
    s.rx.halted = false
      ∧ ((bytes.length ≠ 22 ∧ t = s.ended .dropLength)
        ∨ (bytes.length = 22
          ∧ t = (s.withRx ((s.rx.accept (snapshotOfPacket bytes)).setLast s.cfg.rxGap
              (pktWord bytes 0))).endedWithGap
              (gap16 s.cfg.rxGap s.rx.haveLast s.rx.lastSeq (pktWord bytes 0)))) := by
  obtain ⟨hh, h⟩ := unlessHalted_next.mp h
  refine ⟨hh, ?_⟩
  by_cases hl : bytes.length = 22
  · simp only [hl, if_true, Host.Outcome.next.injEq] at h
    exact .inr ⟨hl, h.symm⟩
  · simp only [hl, if_false, drop_next, Host.Outcome.next.injEq] at h
    exact .inl ⟨hl, h.symm⟩

/-- What FRAMED_EMIT emits once gate and hold let it. -/
abbrev framedEmittedState (ts : Word32) (s : State) : State :=
  (s.withTx ((s.tx.setSeq8 (s.tx.seq8 + 1)).setBusy s.cfg.txHandshake true)).emits
    (datagramOf (s.tx.seq8 + 1) ts s.tx.snap)

/-- All FRAMED_EMIT can do. -/
theorem execFramedEmit_next {ts : Word32} {s t : State} (h : execFramedEmit ts s = .next t) :
    s.tx.halted = false ∧ s.cfg.framed = true
      ∧ ((s.tx.hraf = false ∧ t = s.ended .suppressed)
        ∨ (s.tx.hraf = true ∧ s.cfg.txHandshake = true ∧ s.tx.txBusy = true ∧ t = s.held)
        ∨ (s.tx.hraf = true ∧ (s.cfg.txHandshake = false ∨ s.tx.txBusy = false)
          ∧ t = framedEmittedState ts s)) := by
  obtain ⟨hh, h⟩ := unlessHalted_next.mp h
  obtain ⟨hf, h⟩ := ifFramed_next.mp h
  refine ⟨hh, hf, ?_⟩
  rcases gated_next h with h | h | ⟨a, b, c⟩
  · exact .inl h
  · exact .inr (.inl h)
  · exact .inr (.inr ⟨a, b, (Host.Outcome.next.inj c).symm⟩)

/-- All FRAMED_IN can do. -/
theorem execFramedIn_next {bytes : List Byte} {s t : State} (h : execFramedIn bytes s = .next t) :
    s.rx.halted = false ∧ s.cfg.framed = true
      ∧ ((∃ c, datagramFault bytes = some c ∧ t = s.ended c)
        ∨ (datagramFault bytes = none
          ∧ t = (s.withRx ((s.rx.acceptFramed (snapshotOfDatagram bytes)).setFramedLast s.cfg.rxGap
              (pktByte bytes 2))).endedWithGap
              (gap8 s.cfg.rxGap s.rx.fhaveLast s.rx.flastSeq8 (pktByte bytes 2)))) := by
  obtain ⟨hh, h⟩ := unlessHalted_next.mp h
  obtain ⟨hf, h⟩ := ifFramed_next.mp h
  refine ⟨hh, hf, ?_⟩
  cases hc : datagramFault bytes with
  | some c =>
    simp only [hc, drop_next, Host.Outcome.next.injEq] at h
    exact .inl ⟨c, rfl, h.symm⟩
  | none =>
    simp only [hc, Host.Outcome.next.injEq] at h
    exact .inr ⟨rfl, h.symm⟩

/-- All a step can do: nothing with no word presented, else what the presented word stands for. -/
theorem step_next {s t : State} (h : step s = .next t) :
    (s.port = [] ∧ t = s)
      ∨ ∃ p rest i, s.port = p :: rest ∧ decode s.cfg p = .ok i ∧ exec i (s.withPort rest) = .next t := by
  unfold step at h
  cases hp : s.port with
  | nil =>
    simp only [hp, Host.Outcome.next.injEq] at h
    exact .inl ⟨rfl, h.symm⟩
  | cons p rest =>
    simp only [hp] at h
    cases hd : decode s.cfg p with
    | ok i =>
      simp only [hd] at h
      exact .inr ⟨p, rest, i, rfl, hd, h⟩
    | error r =>
      simp only [hd] at h
      exact absurd h rejected_not_next

/-! Rows of a field table. -/

/-- A row writes a field exactly when the field is its destination, with its engineering value (R111). -/
@[simp] theorem evalRow_eq_val {cal : OilCal} {d : Payload} {row : Descriptor} {f : Field} {v : ℚ} :
    evalRow cal d row = some (.val f v) ↔ row.dest = some (.val f) ∧ valueOf cal d row = v := by
  unfold evalRow
  rcases row.dest with _ | _ | g <;> simp

/-- A row writes `rpm` exactly when `rpm` is its destination (R111). -/
@[simp] theorem evalRow_eq_rpm {cal : OilCal} {d : Payload} {row : Descriptor} {v : Word16} :
    evalRow cal d row = some (.rpm v) ↔ row.dest = some .rpm ∧ toRpm (valueOf cal d row) = v := by
  unfold evalRow
  rcases row.dest with _ | _ | g <;> simp

/-- A row that is not stored writes nothing (R154, R183, R187). -/
@[simp] theorem evalRow_eq_none {cal : OilCal} {d : Payload} {row : Descriptor} :
    evalRow cal d row = none ↔ row.dest = none := by
  unfold evalRow
  rcases row.dest with _ | _ | g <;> simp

/-- All a routine can write: what some row of its table writes (R145). -/
theorem mem_routine {c : Params} {r : PE} {d : Payload} {w : Write} :
    w ∈ routine c r d ↔ ∃ row ∈ writingRowsOf c r, evalRow c.oilCal d row = some w := List.mem_filterMap

/-- MinDlc is the larger of what R200 asks and one plus the highest byte that a row reads (R158). -/
theorem minDlc_eq (c : Params) (r : PE) :
    minDlc c r = max (leastDlc c r) ((rowsOf c r).foldl (fun m d => max m (rowEnd d)) 0) := by
  have init : ∀ (rows : List Descriptor) (n : Nat), rows.foldl (fun m d => max m (rowEnd d)) n
      = max n (rows.foldl (fun m d => max m (rowEnd d)) 0) := by
    intro rows
    induction rows with
    | nil => intro n; simp
    | cons d rows ih =>
      intro n
      simp only [List.foldl_cons]
      rw [ih (max n (rowEnd d)), ih (max 0 (rowEnd d))]
      omega
  exact init _ _

/-- Every row of a routine ends within its MinDlc (R158). -/
theorem rowEnd_le_minDlc {c : Params} {r : PE} {d : Descriptor} (h : d ∈ rowsOf c r) : rowEnd d ≤ minDlc c r := by
  have within : ∀ (rows : List Descriptor) (n : Nat),
      n ≤ rows.foldl (fun m d => max m (rowEnd d)) n ∧ (d ∈ rows → rowEnd d ≤ rows.foldl (fun m d => max m (rowEnd d)) n) := by
    intro rows
    induction rows with
    | nil => exact fun n => ⟨le_refl n, fun h => by cases h⟩
    | cons e rows ih =>
      intro n
      obtain ⟨base, member⟩ := ih (max n (rowEnd e))
      refine ⟨le_trans (le_max_left _ _) base, fun h => ?_⟩
      rcases List.mem_cons.mp h with rfl | h
      · exact le_trans (le_max_right _ _) base
      · exact member h
  exact (within _ _).2 h

/-- A row of a BASIC routine is one that BASIC has (R200). -/
theorem inBasic_of_mem_rowsOf {c : Params} {r : PE} {d : Descriptor} (hb : c.variant = .basic)
    (h : d ∈ rowsOf c r) : inBasic r d = true := by
  simp only [rowsOf, hb] at h
  exact (List.mem_filter.mp h).2

/-- Distinct IDs, as a statement over the rows of the active table (R180). -/
theorem Params.distinctIds_iff (c : Params) : c.distinctIds = true ↔
    ∀ r r', isActive c r = true → isActive c r' = true → idOf c r = idOf c r' → r = r' := by
  have every : ∀ r : PE, r ∈ PE.all := by intro r; cases r <;> decide
  constructor
  · intro h r r' hr hr' hid
    have := List.all_eq_true.mp (List.all_eq_true.mp h r (every r)) r' (every r')
    simpa [hr, hr', hid] using this
  · intro h
    refine List.all_eq_true.mpr fun r _ => List.all_eq_true.mpr fun r' _ => ?_
    cases hr : isActive c r <;> cases hr' : isActive c r' <;> simp
    by_cases hid : idOf c r = idOf c r'
    · exact .inr (h r r' hr hr' hid)
    · exact .inl hid

/-- A word is its own value as `rpm` (R31, R182). -/
@[simp] theorem toRpm_word (w : Word16) : toRpm (w.toNat : ℚ) = w := by
  have := w.isLt
  have hd : (w.toNat : ℚ).den = 1 := Rat.den_natCast _
  have hn : (w.toNat : ℚ).num = (w.toNat : Int) := Rat.num_natCast _
  unfold toRpm
  rw [hd, hn, if_pos ⟨rfl, by omega, by omega⟩]
  simp

/-! Writes of a routine, field by field. -/

@[simp] theorem writeAll_nil (s : Snapshot) : s.writeAll [] = s := rfl

@[simp] theorem writeAll_cons (s : Snapshot) (w : Write) (ws : List Write) :
    s.writeAll (w :: ws) = (s.write w).writeAll ws := rfl

theorem writeAll_append (s : Snapshot) (ws vs : List Write) :
    s.writeAll (ws ++ vs) = (s.writeAll ws).writeAll vs := List.foldl_append ..

/-- A field that no write names keeps its value (R145). -/
theorem writeAll_get_of_not_written {ws : List Write} {f : Field}
    (h : ∀ v, Write.val f v ∉ ws) (s : Snapshot) : (s.writeAll ws).get f = s.get f := by
  induction ws generalizing s with
  | nil => rfl
  | cons w ws ih =>
    rw [writeAll_cons, ih (fun v hv => h v (List.mem_cons_of_mem _ hv))]
    cases w with
    | rpm v => rfl
    | val g v =>
      have hne : g ≠ f := fun e => h v (by simp [e])
      exact Snapshot.get_set_ne s hne v

/-- `rpm` keeps its value when no write names it (R145). -/
theorem writeAll_rpm_of_not_written {ws : List Write} (h : ∀ v, Write.rpm v ∉ ws) (s : Snapshot) :
    (s.writeAll ws).rpm = s.rpm := by
  induction ws generalizing s with
  | nil => rfl
  | cons w ws ih =>
    rw [writeAll_cons, ih (fun v hv => h v (List.mem_cons_of_mem _ hv))]
    cases w with
    | rpm v => exact absurd (List.mem_cons_self ..) (h v)
    | val g v => rfl

/-- After the writes of a list, a field holds a value that some write of the list gave it, or its old one. -/
theorem writeAll_get_cases (ws : List Write) (s : Snapshot) (f : Field) :
    (∃ v, Write.val f v ∈ ws ∧ (s.writeAll ws).get f = v) ∨ (s.writeAll ws).get f = s.get f := by
  induction ws generalizing s with
  | nil => exact .inr rfl
  | cons w ws ih =>
    rcases ih (s.write w) with ⟨v, hv, he⟩ | he
    · exact .inl ⟨v, List.mem_cons_of_mem _ hv, he⟩
    · cases w with
      | rpm v => exact .inr he
      | val g v =>
        by_cases hg : g = f
        · subst hg
          refine .inl ⟨v, List.mem_cons_self .., ?_⟩
          rw [writeAll_cons, he]
          exact Snapshot.get_set_self s g v
        · refine .inr ?_
          rw [writeAll_cons, he]
          exact Snapshot.get_set_ne s hg v

end Sys2Proof.Machine
end

