-- ==== Sys2Proof/Laws/Codec.lean ====
section
/-! SUPPORT. The number formats and byte layouts of the packets: bounds of the stored integers, lengths,
and the bytes at each offset. -/

namespace Sys2Proof.Machine

/-- A clamped integer lies in its bounds. -/
theorem clamp_bounds {lo hi : Int} (h : lo ≤ hi) (r : Int) : lo ≤ clamp lo hi r ∧ clamp lo hi r ≤ hi := by
  unfold clamp
  omega

/-- A clamped integer is the integer itself when that lies in the bounds. -/
theorem clamp_of_mem {lo hi r : Int} (h₁ : lo ≤ r) (h₂ : r ≤ hi) : clamp lo hi r = r := by
  unfold clamp
  omega

theorem Store.lo_le_hi (t : Store) : t.lo ≤ t.hi := by cases t <;> decide

/-- A stored integer lies in the bounds of its type (R23, R25). -/
theorem quant_bounds (v s : ℚ) (t : Store) : t.lo ≤ quant v s t ∧ quant v s t ≤ t.hi :=
  clamp_bounds t.lo_le_hi _

/-- Every i16 reading lies in the type's range. -/
theorem s16_range (v : Word16) : -32768 ≤ s16 v ∧ s16 v ≤ 32767 := by
  unfold s16
  have := v.isLt
  split <;> omega

/-- The signed reading is the two's-complement one. -/
theorem s16_eq_toInt (v : Word16) : s16 v = v.toInt := by
  unfold s16
  have := v.isLt
  rw [BitVec.toInt_eq_toNat_cond]
  split <;> split <;> omega

@[simp] theorem le16_length (w : Word16) : (le16 w).length = 2 := rfl

@[simp] theorem le32_length (w : Word32) : (le32 w).length = 4 := rfl

@[simp] theorem pack16_length (v s : ℚ) (t : Store) : (pack16 v s t).length = 2 := rfl

@[simp] theorem pack8_length (v s : ℚ) (t : Store) : (pack8 v s t).length = 1 := rfl

/-- R121: a packet is exactly 22 bytes. -/
@[simp] theorem packetOf_length (n : Word16) (s : Snapshot) : (packetOf n s).length = 22 := by
  simp [packetOf, packetLayout, packRow, packAs]

/-- R123: a framed datagram is exactly 38 bytes. -/
@[simp] theorem datagramOf_length (n : Byte) (ts : Word32) (s : Snapshot) :
    (datagramOf n ts s).length = 38 := by
  simp [datagramOf, datagramLayout, packRow, packAs]

/-- The two bytes of a word, joined again. -/
@[simp] theorem u16_of_le16 (w : Word16) : u16 (w.extractLsb' 0 8) (w.extractLsb' 8 8) = w := by
  apply BitVec.eq_of_toNat_eq
  simp only [u16, BitVec.extractLsb'_toNat, BitVec.toNat_ofNat,
    Nat.shiftRight_eq_div_pow]
  have := w.isLt
  omega

/-- The pattern of a stored u16 read back. -/
theorem toNat_ofInt_u16 {r : Int} (h₁ : 0 ≤ r) (h₂ : r ≤ 65535) :
    ((BitVec.ofInt 16 r).toNat : Int) = r := by
  rw [BitVec.toNat_ofInt]
  omega

/-- The pattern of a stored u8 read back. -/
theorem toNat_ofInt_u8 {r : Int} (h₁ : 0 ≤ r) (h₂ : r ≤ 255) :
    ((BitVec.ofInt 8 r).toNat : Int) = r := by
  rw [BitVec.toNat_ofInt]
  omega

/-- The pattern of a stored i16 read back, signed. -/
theorem s16_ofInt {r : Int} (h₁ : -32768 ≤ r) (h₂ : r ≤ 32767) : s16 (BitVec.ofInt 16 r) = r := by
  unfold s16
  rw [BitVec.toNat_ofInt]
  split <;> omega

end Sys2Proof.Machine
end

