-- ==== Sys2Proof/Laws/Records.lean ====
section
/-! SUPPORT. The bytes of a record and back: words split into bytes and joined, a frame's operands, and the
dispatch key's parts. -/

namespace Sys2Proof

open Machine

/-- Splitting a word into its bytes and joining them gives the word. -/
@[simp] theorem join32_split32 (w : Word32) :
    join32 (w.extractLsb' 0 8) (w.extractLsb' 8 8) (w.extractLsb' 16 8) (w.extractLsb' 24 8) = w := by
  apply BitVec.eq_of_getLsbD_eq
  intro i hi
  simp only [join32, BitVec.getLsbD_append, BitVec.getLsbD_extractLsb']
  interval_cases i <;> rfl

/-- The 30 bits of a key survive the 32-bit container. -/
@[simp] theorem key_container (k : BitVec 30) : (k.setWidth 32).setWidth 30 = k := by
  apply BitVec.eq_of_toNat_eq
  simp

/-- The four bits of a DLC survive the byte container. -/
@[simp] theorem dlc_container (d : BitVec 4) : (d.setWidth 8).setWidth 4 = d := by
  apply BitVec.eq_of_toNat_eq
  simp

/-- The operands of a frame, encoded and decoded. -/
@[simp] theorem decodeFrame_encodeFrame (build : BitVec 30 → BitVec 4 → Payload → Instr)
    (k : BitVec 30) (dlc : BitVec 4) (data : Payload) :
    decodeFrame build (encodeFrame k dlc data) = .ok (build k dlc data) := by
  simp [encodeFrame, split32, Payload.toList, decodeFrame]

/-- The extended flag of a dispatch key (R105). -/
@[simp] theorem keyExt_dispatchKey (ext : Bool) (id : CanId) : keyExt (dispatchKey ext id) = ext := by
  unfold keyExt dispatchKey
  rw [BitVec.getLsbD_append]
  simp

/-- The ID of a dispatch key (R105). -/
@[simp] theorem keyId_dispatchKey (ext : Bool) (id : CanId) : keyId (dispatchKey ext id) = id := by
  apply BitVec.eq_of_toNat_eq
  simp only [keyId, dispatchKey, BitVec.toNat_setWidth, BitVec.toNat_append]
  rw [Nat.shiftLeft_eq, Nat.mul_comm, ← Nat.two_pow_add_eq_or_of_lt id.isLt]
  have := id.isLt
  omega

end Sys2Proof
end

