-- ==== Sys2Proof/Laws/FrontEnd.lean ====
section
/-! SUPPORT. The controller's registers under the front end's commands: a register after a write, a poll's
commands as one register update, what an arriving frame can do; and the words a host presents, decoded. -/

namespace Sys2Proof.Machine

/-- A register reads as the last value written to it, and every other register as before. -/
theorem Controller.read_write (c : Controller) (r r' : Reg) (v : Byte) :
    (c.write r v).read r' = if r = r' then v else c.read r' := by
  have buffers : ∀ (b : RxBuffer) (k k' : Fin 13), (b.set k v)[k'] = if k = k' then v else b[k'] := by
    intro b k k'
    by_cases h : k = k'
    · subst h; simp
    · have : k.val ≠ k'.val := fun e => h (Fin.ext e)
      simp [h, this]
  rcases r with _ | _ | _ | _ | _ | _ | _ | _ | n | ⟨n, k⟩ <;>
    rcases r' with _ | _ | _ | _ | _ | _ | _ | _ | n' | ⟨n', k'⟩ <;>
    first | rfl | (cases n <;> first | rfl | (cases n' <;> first | rfl | skip)) | (cases n' <;> rfl)
  · simpa [Controller.write, Controller.read] using buffers c.rxb0 k k'
  · simpa [Controller.write, Controller.read] using buffers c.rxb1 k k'

/-- Commands in two parts, one after the other. -/
theorem Controller.run_append (fresh c : Controller) (a b : List Spi) :
    Controller.run fresh c (a ++ b) = Controller.run fresh (Controller.run fresh c a) b := List.foldl_append ..

/-- Reads leave the controller alone (R412). -/
theorem Controller.run_reads (fresh c : Controller) {α : Type} (rs : List α) (f : α → Reg) :
    Controller.run fresh c (rs.map fun x => .read (f x)) = c := by
  induction rs with
  | nil => rfl
  | cons x rs ih => exact ih

/-- Draining a buffer clears its receive flag and nothing else (R414). -/
theorem drain_run (fresh c c' : Controller) (n : BufferNo) :
    Controller.run fresh c' (drainTransactions c n) =
      if c.isFull n then { c' with canintf := masked c'.canintf n.flagMask 0 } else c' := by
  unfold drainTransactions
  split
  · rw [Controller.run_append, Controller.run_reads]
    rfl
  · rfl

/-- All a poll does to the controller: both receive flags and both overflow bits are clear (R456, R457). -/
theorem Controller.poll_controller (k : FrameForm) (c : Controller) :
    (c.poll k).2 = { c with canintf := c.canintf &&& 0xFC, eflg := c.eflg &&& 0x3F } := by
  have flags : ∀ b : Byte,
      (if b.getLsbD 1 then masked (if b.getLsbD 0 then masked b 0x01 0 else b) 0x02 0
        else if b.getLsbD 0 then masked b 0x01 0 else b) = b &&& 0xFC := by decide
  have overflow : ∀ b : Byte, masked b 0xC0 0 = b &&& 0x3F := by decide
  unfold Controller.poll pollTransactions
  simp only [Controller.run_append, drain_run]
  have h := flags c.canintf
  cases c0 : c.isFull .rxb0 <;> cases c1 : c.isFull .rxb1 <;>
    simp only [Controller.isFull] at c0 c1 <;> rw [c0, c1] at h <;>
    simp [Controller.run, Controller.spi, Controller.write, Controller.read, BufferNo.flagMask] <;>
    exact ⟨h, overflow c.eflg⟩

/-- All an arriving frame can do: it is lost and an overflow bit is set, or it fills buffer 0, or it fills
buffer 1 behind a full buffer 0. -/
theorem Controller.arrive_cases (c : Controller) (lost : BufferNo) (b : RxBuffer) :
    ((c.overflowed = true ∨ c.isFull .rxb0 = true ∧ c.isFull .rxb1 = true) ∧ c.arrive lost b = c.lose lost)
      ∨ (c.overflowed = false ∧ c.isFull .rxb0 = false ∧ c.arrive lost b = c.fill .rxb0 b)
      ∨ (c.overflowed = false ∧ c.isFull .rxb0 = true ∧ c.isFull .rxb1 = false
        ∧ c.arrive lost b = c.fill .rxb1 b) := by
  unfold Controller.arrive
  cases c.overflowed <;> cases c.isFull .rxb0 <;> cases c.isFull .rxb1 <;> simp

/-- A record of a command decodes to it under any parameters: only a frame's key depends on them (R100). -/
theorem decode_encode_command (c c' : Params) {i : Instr} (h : i.key? = none) :
    decode c (encode c' i) = .ok i := by
  cases i with
  | reset b => cases b <;> rfl
  | halt b => cases b <;> rfl
  | frameIn ext id dlc data => simp [decode, encode, decodeCommand, acceptedBy]
  | frameInRegs sidh sidl eid8 eid0 dlcreg d => cases d; rfl
  | framedEmit ts => simp [decode, encode, decodeCommand, acceptedBy, split32, decodeStamp]
  | emit => rfl
  | txDone => rfl
  | pktIn bytes => rfl
  | framedIn bytes => rfl
  | _ => simp [Instr.key?] at h

/-- The word that presents a buffer's content decodes to the command the host chose. -/
@[simp] theorem decode_presentBuffer (c : Params) (k : FrameForm) (b : RxBuffer) :
    decode c (presentBuffer k b) = .ok (k.instr b) := decode_encode_command c _ (by cases k <;> rfl)

/-- The word that presents a datagram decodes to the command the host chose. -/
@[simp] theorem decode_presentDatagram (c : Params) (k : Reader) (bytes : List Byte) :
    decode c (presentDatagram k bytes) = .ok (k.instr bytes) := decode_encode_command c _ (by cases k <;> rfl)

end Sys2Proof.Machine
end

