-- ==== Sys2Proof/Laws/PerInstr.lean ====
section
/-! SUPPORT. A family of one lemma per instruction: the record of an instruction stands on a port of the
block that accepts it, and begins with its command code, or is a whole frame (R100, R105). -/

namespace Sys2Proof.Laws.CodeInRecord

open Sys2Proof

/-- The command code of an instruction of the CMD format (R100). -/
def codeOf : Instr → Option (BitVec 4)
  | .reset _ => some 0
  | .frameIn .. => some 1
  | .frameInRegs .. => some 2
  | .emit => some 3
  | .txDone => some 4
  | .halt _ => some 5
  | .pktIn _ => some 6
  | .framedEmit _ => some 7
  | .framedIn _ => some 8
  | .pe1 .. => none
  | .pe2 .. => none
  | .pe3 .. => none
  | .pe4 .. => none
  | .pe5 .. => none
  | .pe6 .. => none
  | .pe7 .. => none
  | .pe8 .. => none
  | .pe9 .. => none
  | .pe10 .. => none
  | .pe11 .. => none
  | .pe12 .. => none
  | .pe13 .. => none
  | .pe14 .. => none
  | .pe15 .. => none
  | .pe16 .. => none

/-- The record's port is of the instruction's block; it leads with the command code, or has the thirteen
bytes of a frame on the frame input. -/
def Statement (i : Instr) : Prop :=
  ∀ c : Params, (encode c i).port.block = i.block
    ∧ match codeOf i with
      | some code => (encode c i).bytes.head?.map (BitVec.setWidth 4) = some code
      | none => (encode c i).port = .frame ∧ (encode c i).bytes.length = 13

theorem reset (b : Block) : Statement (.reset b) := fun _ => by cases b <;> exact ⟨rfl, rfl⟩

theorem frameIn (ext : Bool) (id : CanId) (dlc : BitVec 4) (data : Payload) :
    Statement (.frameIn ext id dlc data) := fun _ => ⟨rfl, rfl⟩

theorem frameInRegs (sidh sidl eid8 eid0 dlcreg : Byte) (d : Payload) :
    Statement (.frameInRegs sidh sidl eid8 eid0 dlcreg d) := fun _ => ⟨rfl, rfl⟩

theorem emit : Statement .emit := fun _ => ⟨rfl, rfl⟩

theorem txDone : Statement .txDone := fun _ => ⟨rfl, rfl⟩

theorem halt (b : Block) : Statement (.halt b) := fun _ => by cases b <;> exact ⟨rfl, rfl⟩

theorem pktIn (bytes : List Byte) : Statement (.pktIn bytes) := fun _ => ⟨rfl, rfl⟩

theorem framedEmit (ts : Word32) : Statement (.framedEmit ts) := fun _ => ⟨rfl, rfl⟩

theorem framedIn (bytes : List Byte) : Statement (.framedIn bytes) := fun _ => ⟨rfl, rfl⟩

theorem pe1 (dlc : BitVec 4) (data : Payload) : Statement (.pe1 dlc data) := fun _ => ⟨rfl, rfl, rfl⟩

theorem pe2 (dlc : BitVec 4) (data : Payload) : Statement (.pe2 dlc data) := fun _ => ⟨rfl, rfl, rfl⟩

theorem pe3 (dlc : BitVec 4) (data : Payload) : Statement (.pe3 dlc data) := fun _ => ⟨rfl, rfl, rfl⟩

theorem pe4 (dlc : BitVec 4) (data : Payload) : Statement (.pe4 dlc data) := fun _ => ⟨rfl, rfl, rfl⟩

theorem pe5 (dlc : BitVec 4) (data : Payload) : Statement (.pe5 dlc data) := fun _ => ⟨rfl, rfl, rfl⟩

theorem pe6 (dlc : BitVec 4) (data : Payload) : Statement (.pe6 dlc data) := fun _ => ⟨rfl, rfl, rfl⟩

theorem pe7 (dlc : BitVec 4) (data : Payload) : Statement (.pe7 dlc data) := fun _ => ⟨rfl, rfl, rfl⟩

theorem pe8 (dlc : BitVec 4) (data : Payload) : Statement (.pe8 dlc data) := fun _ => ⟨rfl, rfl, rfl⟩

theorem pe9 (dlc : BitVec 4) (data : Payload) : Statement (.pe9 dlc data) := fun _ => ⟨rfl, rfl, rfl⟩

theorem pe10 (dlc : BitVec 4) (data : Payload) : Statement (.pe10 dlc data) := fun _ => ⟨rfl, rfl, rfl⟩

theorem pe11 (dlc : BitVec 4) (data : Payload) : Statement (.pe11 dlc data) := fun _ => ⟨rfl, rfl, rfl⟩

theorem pe12 (dlc : BitVec 4) (data : Payload) : Statement (.pe12 dlc data) := fun _ => ⟨rfl, rfl, rfl⟩

theorem pe13 (dlc : BitVec 4) (data : Payload) : Statement (.pe13 dlc data) := fun _ => ⟨rfl, rfl, rfl⟩

theorem pe14 (dlc : BitVec 4) (data : Payload) : Statement (.pe14 dlc data) := fun _ => ⟨rfl, rfl, rfl⟩

theorem pe15 (dlc : BitVec 4) (data : Payload) : Statement (.pe15 dlc data) := fun _ => ⟨rfl, rfl, rfl⟩

theorem pe16 (dlc : BitVec 4) (data : Payload) : Statement (.pe16 dlc data) := fun _ => ⟨rfl, rfl, rfl⟩

end Sys2Proof.Laws.CodeInRecord
end

