-- ==== Sys2Proof/Laws/Run.lean ====
section
/-! SUPPORT. What one word of a run can do, and the induction over a run, packaged once. -/

namespace Sys2Proof.Machine

/-- An instruction belongs to the block on whose port its record stands (R100). -/
theorem decode_block {c : Params} {p : Presented} {i : Instr} (h : decode c p = .ok i) :
    i.block = p.port.block := by
  have frames : ∀ {build : BitVec 30 → BitVec 4 → Payload → Instr} {l : List Byte},
      (∀ k dlc d, (build k dlc d).block = .tx) → decodeFrame build l = .ok i → i.block = .tx := by
    intro build l hb hd
    unfold decodeFrame at hd
    split at hd
    · cases hd; exact hb _ _ _
    · cases hd
  have bare : ∀ {j : Instr} {l : List Byte}, decodeBare j l = .ok i → i = j := by
    intro j l hd
    cases l <;> cases hd
    rfl
  have commands : ∀ {b : Block} {l : List Byte}, decodeCommand b l = .ok i → i.block = b := by
    intro b l hd
    unfold decodeCommand at hd
    split at hd
    · cases hd
    · split at hd <;> try unfold acceptedBy at hd
      · rw [bare hd]; rfl
      · split at hd
        · rename_i hb; rw [← hb]; exact frames (fun _ _ _ => rfl) hd
        · cases hd
      · split at hd
        · rename_i hb; rw [← hb]
          unfold decodeRegs at hd
          split at hd <;> cases hd
          rfl
        · cases hd
      · split at hd
        · rename_i hb; rw [← hb, bare hd]; rfl
        · cases hd
      · split at hd
        · rename_i hb; rw [← hb, bare hd]; rfl
        · cases hd
      · rw [bare hd]; rfl
      · split at hd <;> cases hd
        rename_i hb; exact hb
      · split at hd
        · rename_i hb; rw [← hb]
          unfold decodeStamp at hd
          split at hd <;> cases hd
          rfl
        · cases hd
      · split at hd <;> cases hd
        rename_i hb; exact hb
      · cases hd
  unfold decode at h
  cases hp : p.port <;> rw [hp] at h
  · exact commands h
  · exact commands h
  · refine frames (fun k dlc d => ?_) h
    unfold ofDispatchKey
    split
    · split
      · rename_i r _
        cases r <;> rfl
      · rfl
    · rfl

/-- All that one word alone on the port can do. -/
theorem step_single {s t : State} {p : Presented} (h : step (s.withPort [p]) = .next t) :
    ∃ i, decode s.cfg p = .ok i ∧ i.block = p.port.block ∧ exec i (s.withPort []) = .next t := by
  rcases step_next h with ⟨hp, -⟩ | ⟨q, rest, i, hp, hd, he⟩
  · cases hp
  · cases hp
    exact ⟨i, hd, decode_block hd, he⟩

/-- The state that the RESET of a run leaves (R320, R453). -/
def State.afterReset (s : State) : Block → State
  | .tx => ((s.withPort []).withTx Tx.zero).ended .ok
  | .rx => ((s.withPort []).withRx Rx.zero).ended .ok

/-- A run is its words, run from the state that its RESET leaves (R464). -/
theorem run_eq (b : Block) (words : List Presented) (s : State) :
    run b words s = runWords b s.emitted.length words (s.afterReset b) := by
  have reset : step (s.withPort [resetWord b]) = .next (s.afterReset b) := by cases b <;> rfl
  have running : isHalted (s.afterReset b) b = false := by cases b <;> rfl
  have answer : (s.afterReset b).out.answer = .done .ok := by cases b <;> rfl
  unfold run
  rw [runWords, reset]
  simp only [running, answer]

/-- The state a run stands in, if it was not refused. -/
def RunEnd.state? : RunEnd → Option State
  | .final s _ => some s
  | .pending s _ _ => some s
  | .stuck s _ => some s
  | .refused _ => none

/-- What every word of block `b` keeps, a run of `b` keeps (R464). -/
theorem runWords_keeps {b : Block} {before : Nat} {Inv : State → Prop}
    (keeps : ∀ {i : Instr} {s t : State}, i.block = b → Inv s → exec i (s.withPort []) = .next t → Inv t)
    {words : List Presented} (hw : wordsOf b words = true) {s : State} (hi : Inv s) :
    ∀ t ∈ (runWords b before words s).state?, Inv t := by
  induction words generalizing s with
  | nil => intro t ht; cases ht; exact hi
  | cons p rest ih =>
    simp only [wordsOf, List.all_cons, Bool.and_eq_true, decide_eq_true_eq] at hw
    unfold runWords
    cases hs : step (s.withPort [p]) with
    | fault e => intro t ht; cases ht; exact hi
    | refused e => intro t ht; cases ht
    | next u =>
      obtain ⟨i, -, hb, he⟩ := step_single hs
      have hu : Inv u := keeps (hb.trans hw.1) hi he
      simp only
      split
      · intro t ht; cases ht; exact hu
      · intro t ht; cases ht; exact hu
      · exact ih hw.2 hu

end Sys2Proof.Machine
end

