-- ==== Sys2Proof/Tests/Slice0.lean ====
section
/-! SUPPORT. Tests: what WellFormed and legal refuse, a written-out word for every constructor, one step of
each instruction against the vectors of 95_test_vectors.md (named in each docstring), and a witness for the
hypotheses of each statement. -/

namespace Sys2Proof.Tests

open Sys2Proof Sys2Proof.Machine

/-! ## Small states -/

/-- The parameters with P_FRAMED true. -/
def framedParams : Params := { defaultParams with framed := true }

/-- The parameters with P_VARIANT = BASIC. -/
def basicParams : Params := { defaultParams with variant := .basic }

/-- The oil row on PE7 at offset 6. -/
def movedOil : Params := { defaultParams with oilSource := ⟨.pe7, 6⟩ }

/-- The reset state built with other parameters. -/
def built (c : Params) : State := { State.reset with cfg := c }

/-- A built state with the gate open. -/
def live (c : Params) : State := { built c with tx := { Tx.zero with hraf := true } }

/-- A live state with a packet outstanding. -/
def busy (c : Params) : State := (live c).withTx { Tx.zero with hraf := true, txBusy := true }

/-- Both blocks halted. -/
def dead : State := { State.reset with tx := Tx.zero.halt, rx := Rx.zero.halt }

/-- A live state whose RX block has accepted the counter `n`. -/
def received (n : Word16) : State :=
  (live defaultParams).withRx (Rx.zero.setLast true n)

/-- The state an instruction leads to, if it leads to one. -/
def after (i : Instr) (s : State) : Option State :=
  match exec i s with
  | .next t => some t
  | .fault _ => none
  | .refused _ => none

/-- The answer of an instruction and what it leaves in some fields of the snapshot. -/
def decoded (i : Instr) (s : State) (fs : List Field) : Option (Answer × Bool × List ℚ) :=
  (after i s).map fun t => (t.out.answer, t.tx.hraf, fs.map t.tx.snap.get)

/-- The answer, the packet and the two registers an emission moves. -/
def emission (i : Instr) (s : State) : Option (Answer × Option (List Byte) × Word16 × Byte × Bool) :=
  (after i s).map fun t => (t.out.answer, t.out.packet, t.tx.seq, t.tx.seq8, t.tx.txBusy)

/-- The snapshot with some fields set. -/
def snapOf (rpm : Word16) (fs : List (Field × ℚ)) : Snapshot :=
  fs.foldl (fun s p => s.set p.1 p.2) { Snapshot.zero with rpm := rpm }

/-- A live state with a snapshot and counters. -/
def holding (c : Params) (snap : Snapshot) (seq : Word16) (seq8 : Byte) : State :=
  (live c).withTx { Tx.zero with hraf := true, snap := snap, seq := seq, seq8 := seq8 }

/-- The payload of E1. -/
def e1 : Payload := ⟨0x88, 0x13, 0, 0, 0x16, 0, 0x78, 0⟩

/-- A payload of zeros. -/
def zeros : Payload := ⟨0, 0, 0, 0, 0, 0, 0, 0⟩

/-- The packet of E2. -/
def e2 : List Byte := [0x01, 0, 0x72, 0x14, 0xD7, 0x03, 0x7B, 0, 0x09, 0x02, 0x4A, 0x03, 0x62, 0x7F,
  0, 0, 0, 0, 0, 0, 0, 0]

/-- A 22-byte datagram with counter bytes `lo hi`. -/
def counted (lo hi : Byte) : List Byte := lo :: hi :: List.replicate 20 0

/-- The datagram of V103. -/
def v103 : List Byte :=
  [0xAA, 0x01, 0x01, 0x22, 0xE8, 0x03, 0, 0, 0x88, 0x13, 0, 0, 0x16, 0, 0x78, 0] ++ List.replicate 22 0

/-! ## WellFormed and legal: an ill-formed term for each check -/

theorem test_wf_variant : WellFormed basicParams (.pe4 8 zeros) = false := by decide
theorem test_wf_pe16_absent : WellFormed { defaultParams with pe16Id := none } (.pe16 8 zeros) = false := by decide
theorem test_wf_pe16_repeated :
    WellFormed { defaultParams with pe16Id := some 0x0CFFF048 } (.pe16 8 zeros) = false := by decide
theorem test_wf_default : (PE.all.all fun r => WellFormed defaultParams (.ofKey r 8 zeros)) = true := by decide
theorem test_legal_repeated : Params.legal { defaultParams with pe16Id := some 0x0CFFFE48 } = false := by
  with_unfolding_all decide
theorem test_legal_divisor : Params.legal { defaultParams with oilCal := ⟨0, 25, 25 / 2⟩ } = false := by
  with_unfolding_all decide
theorem test_legal_offset : Params.legal { defaultParams with oilSource := ⟨.pe3, 7⟩ } = false := by
  with_unfolding_all decide
theorem test_legal_default : Params.legal defaultParams = true := by with_unfolding_all decide

/-- Only rows of the active table count: BASIC has no PE16. -/
theorem test_distinctIds :
    Params.distinctIds { defaultParams with pe16Id := some 0x0CFFFE48 } = false
    ∧ Params.distinctIds { basicParams with pe16Id := some 0x0CFFF048 } = true := by decide

/-! ## Decoding: words written out from R100, R101, R105, R109 -/

/-- A record decoded under the default parameters. -/
def read (p : Port) (bytes : List Byte) : Option Instr :=
  match decode defaultParams ⟨p, bytes⟩ with
  | .ok i => some i
  | .error _ => none

/-- A raw frame of ID 0x0CFFFn48 with bit 29 of the key set, DLC 8, payload 1 to 8. -/
def keyed (n : Byte) : List Byte := [0x48, n, 0xFF, 0x2C, 0x08, 1, 2, 3, 4, 5, 6, 7, 8]

/-- The payload 1 to 8. -/
def counting : Payload := ⟨1, 2, 3, 4, 5, 6, 7, 8⟩

theorem test_decode_reset_tx : read .txCmd [0x00] = some (.reset .tx) := by decide
theorem test_decode_reset_rx : read .rxCmd [0x00] = some (.reset .rx) := by decide
theorem test_decode_frameIn : read .txCmd [0x01, 0x48, 0xF0, 0xFF, 0x2C, 0x07, 1, 2, 3, 4, 5, 6, 7, 8]
    = some (.frameIn true 0x0CFFF048 7 counting) := by decide
theorem test_decode_frameIn_standard : read .txCmd [0x01, 0x23, 0x01, 0, 0, 0x0F, 1, 2, 3, 4, 5, 6, 7, 8]
    = some (.frameIn false 0x123 15 counting) := by decide
theorem test_decode_frameInRegs :
    read .txCmd [0x02, 0x67, 0xEB, 0xF0, 0x48, 0x08, 1, 2, 3, 4, 5, 6, 7, 8]
      = some (.frameInRegs 0x67 0xEB 0xF0 0x48 0x08 counting) := by decide
theorem test_decode_emit : read .txCmd [0x03] = some .emit := by decide
theorem test_decode_txDone : read .txCmd [0x04] = some .txDone := by decide
theorem test_decode_halt_tx : read .txCmd [0x05] = some (.halt .tx) := by decide
theorem test_decode_halt_rx : read .rxCmd [0x05] = some (.halt .rx) := by decide
theorem test_decode_pktIn : read .rxCmd [0x06, 0x01, 0x00, 0x72] = some (.pktIn [0x01, 0x00, 0x72]) := by decide
theorem test_decode_framedEmit :
    read .txCmd [0x07, 0x78, 0x56, 0x34, 0x12] = some (.framedEmit 0x12345678) := by decide
theorem test_decode_framedIn : read .rxCmd [0x08, 0xAA, 0x01] = some (.framedIn [0xAA, 0x01]) := by decide
theorem test_decode_pe1 : read .frame (keyed 0xF0) = some (.pe1 8 counting) := by decide
theorem test_decode_pe2 : read .frame (keyed 0xF1) = some (.pe2 8 counting) := by decide
theorem test_decode_pe3 : read .frame (keyed 0xF2) = some (.pe3 8 counting) := by decide
theorem test_decode_pe4 : read .frame (keyed 0xF3) = some (.pe4 8 counting) := by decide
theorem test_decode_pe5 : read .frame (keyed 0xF4) = some (.pe5 8 counting) := by decide
theorem test_decode_pe6 : read .frame (keyed 0xF5) = some (.pe6 8 counting) := by decide
theorem test_decode_pe7 : read .frame (keyed 0xF6) = some (.pe7 8 counting) := by decide
theorem test_decode_pe8 : read .frame (keyed 0xF7) = some (.pe8 8 counting) := by decide
theorem test_decode_pe9 : read .frame (keyed 0xF8) = some (.pe9 8 counting) := by decide
theorem test_decode_pe10 : read .frame (keyed 0xF9) = some (.pe10 8 counting) := by decide
theorem test_decode_pe11 : read .frame (keyed 0xFA) = some (.pe11 8 counting) := by decide
theorem test_decode_pe12 : read .frame (keyed 0xFB) = some (.pe12 8 counting) := by decide
theorem test_decode_pe13 : read .frame (keyed 0xFC) = some (.pe13 8 counting) := by decide
theorem test_decode_pe14 : read .frame (keyed 0xFD) = some (.pe14 8 counting) := by decide
theorem test_decode_pe15 : read .frame (keyed 0xFE) = some (.pe15 8 counting) := by decide
theorem test_decode_pe16 : read .frame (keyed 0xD0) = some (.pe16 8 counting) := by decide

/-- V3, V9: neighbours of PE1's ID select no message; V2: nor does its ID without bit 29. -/
theorem test_decode_neighbours :
    read .frame [0x47, 0xF0, 0xFF, 0x2C, 0x08, 1, 2, 3, 4, 5, 6, 7, 8] = some (.frameIn true 0x0CFFF047 8 counting)
    ∧ read .frame [0x48, 0xF0, 0xFF, 0x3C, 0x08, 1, 2, 3, 4, 5, 6, 7, 8] = some (.frameIn true 0x1CFFF048 8 counting)
    ∧ read .frame [0x48, 0xF0, 0xFF, 0x0C, 0x08, 1, 2, 3, 4, 5, 6, 7, 8] = some (.frameIn false 0x0CFFF048 8 counting) := by
  decide

/-- V120: reserved codes and a misdirected PKT_IN decode to nothing, nor does a record of a wrong length. -/
theorem test_decode_rejects :
    ([9, 10, 11, 12, 13, 14, 15].all fun c => (read .txCmd [c]).isNone) = true
    ∧ read .txCmd [0x06, 0x01] = none ∧ read .rxCmd [0x03] = none ∧ read .txCmd [] = none
    ∧ read .txCmd [0x03, 0x00] = none := by decide

theorem test_table_words :
    decodeTableWord 8 0x0 = some (.reset .tx) ∧ decodeTableWord 8 0x6 = some (.pktIn (List.replicate 22 0))
    ∧ decodeTableWord 8 0x7 = some (.framedEmit 0) ∧ decodeTableWord 8 0x9 = none
    ∧ decodeTableWord 32 0x2CFFF048 = some (.pe1 0 zeros)
    ∧ decodeTableWord 32 0x2CFFD048 = some (.pe16 0 zeros) := by decide

theorem test_fetch_word :
    step (State.reset.withFetchWord 8 0x3) = exec .emit State.reset
    ∧ step (State.reset.withFetchWord 32 0x2CFFF648) = exec (.pe7 0 zeros) State.reset := ⟨rfl, rfl⟩

/-! ## One step of each instruction -/

/-- V1 (E1). -/
theorem test_frameIn : decoded (.frameIn true 0x0CFFF048 8 e1) State.reset [.tpsPct, .fotMs, .ignDeg]
    = some (.done .ok, true, [0, 11 / 5, 12]) := by with_unfolding_all decide

/-- V2, V3, V4, V5, V6, V7: the outcome of each check, in its order. -/
theorem test_frameIn_checks :
    [(false, (0x0CFFF048 : CanId), (8 : BitVec 4)), (true, 0x0CFFF047, 8), (true, 0x0CFFF048, 7), (false, 0x0CFFF047, 0),
      (true, 0x0CFFF047, 0), (true, 0x0CFFF048, 15)].map
        (fun p => (after (.frameIn p.1 p.2.1 p.2.2 e1) State.reset).map fun t => (t.out.answer, t.tx.hraf))
      = [some (.done .ignStandard, false), some (.done .ignUnknownId, false), some (.done .ignShortDlc, false),
         some (.done .ignStandard, false), some (.done .ignUnknownId, false), some (.done .ok, true)] := by
  with_unfolding_all decide

/-- V11: assembles PE9 with DLC 6. -/
theorem test_frameInRegs :
    decoded (.frameInRegs 0x67 0xEB 0xF8 0x48 0x06 ⟨0x62, 0, 0x64, 0, 0x5F, 0, 0, 0⟩) State.reset
      [.lambda, .lambda2, .lambdaTarget] = some (.done .ok, true, [49 / 50, 1, 19 / 20]) := by with_unfolding_all decide

/-- V12, V14, V15: IDE clear is a standard frame; RTR and SRR are ignored, DLC nibble 15 means 8. -/
theorem test_frameInRegs_bits :
    (after (.frameInRegs 0x67 0xE3 0xF0 0x48 0x08 e1) State.reset).map (·.out.answer) = some (.done .ignStandard)
    ∧ (after (.frameInRegs 0x67 0xFB 0xF0 0x48 0x4F e1) State.reset).map (·.tx.snap.rpm) = some 5000 := by
  with_unfolding_all decide

/-- V23. -/
theorem test_pe1 : decoded (.pe1 8 ⟨0xFF, 0xFF, 0xFF, 0xFF, 0, 0x80, 0xFF, 0x7F⟩) State.reset
    [.tpsPct, .fotMs, .ignDeg] = some (.done .ok, true, [-1 / 10, -16384 / 5, 32767 / 10]) := by with_unfolding_all decide

/-- V26: the psi flag converts both pressures and not lambda. -/
theorem test_pe2_psi : decoded (.pe2 8 ⟨0x94, 0x27, 0x10, 0x27, 0x62, 0, 0, 0⟩) State.reset
    [.baroKpa, .mapKpa, .lambda] = some (.done .ok, true, [6985770832 / 10000000, 689476 / 1000, 49 / 50]) := by
  with_unfolding_all decide

/-- V28: the kPa flag, with bits 7..1 of its byte ignored, at DLC 7. -/
theorem test_pe2_kpa : decoded (.pe2 7 ⟨0x94, 0x27, 0x10, 0x27, 0x62, 0, 0xFF, 0⟩) State.reset
    [.baroKpa, .mapKpa, .lambda] = some (.done .ok, true, [2533 / 25, 100, 49 / 50]) := by with_unfolding_all decide

/-- V32. -/
theorem test_pe3 : decoded (.pe3 8 ⟨0xC4, 0x09, 0xFF, 0xFF, 0x88, 0x13, 0, 0⟩) State.reset
    [.ai1V, .oilPsi, .ai2V, .ai3V, .ai4V] = some (.done .ok, true, [5 / 2, 50, -1 / 1000, 5, 0]) := by
  with_unfolding_all decide

/-- V40: a DLC of 2 is enough for PE3 in the BASIC variant, where it writes the oil pressure alone. -/
theorem test_pe3_basic : decoded (.pe3 2 ⟨0xC4, 0x09, 0, 0, 0, 0, 0, 0⟩) (built basicParams) [.ai1V, .oilPsi]
    = some (.done .ok, true, [0, 50]) := by with_unfolding_all decide

/-- R200: BASIC PE3 with the oil row on PE5 has MinDlc 2 and writes nothing; with a custom row for the coolant
temperature it still writes the oil pressure alone. -/
theorem test_pe3_basic_oil_only :
    decoded (.pe3 1 zeros) (built { basicParams with oilSource := ⟨.pe5, 6⟩ }) [] = some (.done .ignShortDlc, false, [])
    ∧ decoded (.pe3 2 ⟨0xC4, 0x09, 0, 0, 0, 0, 0, 0⟩) (built { basicParams with oilSource := ⟨.pe5, 6⟩ }) [.oilPsi]
      = some (.done .ok, true, [0])
    ∧ decoded (.pe3 2 ⟨0xC4, 0x09, 0, 0, 0, 0, 0, 0⟩)
      (built { basicParams with fieldTable := { defaultFieldTable with pe3 := [rowS 0 1 .coolantC, rowOil 0] } })
      [.coolantC, .oilPsi] = some (.done .ok, true, [0, 50]) := by with_unfolding_all decide

/-- V41. -/
theorem test_pe4 : decoded (.pe4 8 ⟨0xE8, 0x03, 0xD0, 0x07, 0, 0, 0x18, 0xFC⟩) State.reset
    [.ai5V, .ai6V, .ai7V, .ai8V] = some (.done .ok, true, [1, 2, 0, -1]) := by with_unfolding_all decide

/-- V42. -/
theorem test_pe4_basic : decoded (.pe4 8 ⟨0xE8, 0x03, 0xD0, 0x07, 0, 0, 0x18, 0xFC⟩) (built basicParams) [.ai5V]
    = some (.done .ignUnknownId, false, [0]) := by with_unfolding_all decide

/-- V43. -/
theorem test_pe5 : decoded (.pe5 8 ⟨0x33, 0, 0x64, 0, 0xFF, 0xFF, 0, 0⟩) State.reset
    [.wsFlHz, .wsFrHz, .wsBlHz, .wsBrHz] = some (.done .ok, true, [51 / 5, 20, 13107, 0]) := by with_unfolding_all decide

/-- V45. -/
theorem test_pe6_celsius : decoded (.pe6 8 ⟨0xF6, 0x04, 0xFA, 0, 0x4A, 0x03, 1, 0⟩) State.reset
    [.battV, .airC, .coolantC] = some (.done .ok, true, [127 / 10, 25, 421 / 5]) := by with_unfolding_all decide

/-- V48. -/
theorem test_pe6_fahrenheit : decoded (.pe6 7 ⟨0xF6, 0x04, 0, 0, 0, 0, 0, 0⟩) State.reset
    [.battV, .airC, .coolantC] = some (.done .ok, true, [127 / 10, -160 / 9, -160 / 9]) := by with_unfolding_all decide

/-- V50. -/
theorem test_pe7 : decoded (.pe7 4 ⟨0xFA, 0, 0x06, 0xFF, 0, 0, 0, 0⟩) State.reset [.therm5Temp, .therm7Temp]
    = some (.done .ok, true, [25, -25]) := by with_unfolding_all decide

/-- V52. -/
theorem test_pe8 : decoded (.pe8 8 ⟨0xE8, 0x03, 0x0A, 0, 0xF6, 0xFF, 0x0C, 0⟩) State.reset
    [.rpmRate, .tpsRate, .mapRate, .mafLoadRate] = some (.done .ok, true, [1000, 10, -10, 6 / 5]) := by
  with_unfolding_all decide

/-- V53. -/
theorem test_pe9 : decoded (.pe9 6 ⟨0x62, 0, 0x64, 0, 0x5F, 0, 0, 0⟩) State.reset
    [.lambda, .lambda2, .lambdaTarget] = some (.done .ok, true, [49 / 50, 1, 19 / 20]) := by with_unfolding_all decide

/-- V54. -/
theorem test_pe9_short : decoded (.pe9 5 ⟨0x62, 0, 0x64, 0, 0x5F, 0, 0, 0⟩) State.reset [.lambda]
    = some (.done .ignShortDlc, false, [0]) := by with_unfolding_all decide

/-- V55. -/
theorem test_pe10 : decoded (.pe10 8 ⟨0, 1, 2, 0xC8, 0xFF, 0x10, 0x20, 0x40⟩) State.reset
    [.pwmDutyPct1, .pwmDutyPct2, .pwmDutyPct3, .pwmDutyPct4, .pwmDutyPct5, .pwmDutyPct6, .pwmDutyPct7,
      .pwmDutyPct8] = some (.done .ok, true, [0, 1 / 2, 1, 100, 255 / 2, 8, 16, 32]) := by with_unfolding_all decide

/-- V56. -/
theorem test_pe11 : decoded (.pe11 6 ⟨0x0F, 0, 0xF1, 0xFF, 0x64, 0, 0, 0⟩) State.reset
    [.slipPct, .drivenWheelRoc, .tractionDesiredPct] = some (.done .ok, true, [3 / 2, -3 / 2, 10]) := by
  with_unfolding_all decide

/-- V57. -/
theorem test_pe12 : decoded (.pe12 8 ⟨0xE8, 0x03, 0xD0, 0x07, 0xEC, 0xFF, 0x32, 0⟩) State.reset
    [.drivenAvgWs, .nondrivenAvgWs, .ignCompDeg, .ignCutPct] = some (.done .ok, true, [100, 200, -2, 5]) := by
  with_unfolding_all decide

/-- V58. -/
theorem test_pe13 : decoded (.pe13 8 ⟨0xE8, 0x03, 0xE9, 0x03, 0xD0, 0x07, 0xD1, 0x07⟩) State.reset
    [.drivenWs1, .drivenWs2, .nondrivenWs1, .nondrivenWs2]
      = some (.done .ok, true, [100, 1001 / 10, 200, 2001 / 10]) := by with_unfolding_all decide

/-- V59. -/
theorem test_pe14 : decoded (.pe14 8 ⟨0x0A, 0, 0x14, 0, 0xF6, 0xFF, 0, 0⟩) State.reset
    [.fuelCompAccelPct, .fuelCompStartPct, .fuelCompAirPct, .fuelCompCoolantPct]
      = some (.done .ok, true, [1, 2, -1, 0]) := by with_unfolding_all decide

/-- V60. -/
theorem test_pe15 : decoded (.pe15 4 ⟨0x32, 0, 0xCE, 0xFF, 0, 0, 0, 0⟩) State.reset
    [.fuelCompBaroPct, .fuelCompMapPct] = some (.done .ok, true, [5, -5]) := by with_unfolding_all decide

/-- V61. -/
theorem test_pe16 : decoded (.pe16 8 ⟨0x0A, 0, 0xF6, 0xFF, 0, 0x80, 0xFF, 0x7F⟩) State.reset
    [.ignCompAirDeg, .ignCompCoolantDeg, .ignCompBaroDeg, .ignCompMapDeg]
      = some (.done .ok, true, [1, -1, -16384 / 5, 32767 / 10]) := by with_unfolding_all decide

/-- V62. -/
theorem test_pe16_absent :
    decoded (.pe16 8 ⟨0x0A, 0, 0xF6, 0xFF, 0, 0x80, 0xFF, 0x7F⟩) (built { defaultParams with pe16Id := none })
      [.ignCompAirDeg] = some (.done .ignUnknownId, false, [0]) := by with_unfolding_all decide

/-- E2. -/
theorem test_emit :
    emission .emit (holding defaultParams (snapOf 5234 [(.mapKpa, 983 / 10), (.tpsPct, 123 / 10),
      (.oilPsi, 521 / 10), (.coolantC, 842 / 10), (.lambda, 98 / 100), (.battV, 127 / 10)]) 0 0)
      = some (.done .ok, some e2, 1, 0, true) := by with_unfolding_all decide

/-- V84 with V66, V68, V69, V71, V75, V76, V82 in one snapshot: the wrap of the counter, ties away from zero,
clamps at 0, 255 and -32767. -/
theorem test_emit_corners :
    emission .emit (holding defaultParams (snapOf 65535 [(.mapKpa, 9835 / 100), (.tpsPct, -5),
      (.oilPsi, -1245 / 100), (.coolantC, -32768 / 10), (.lambda, 3), (.battV, 1265 / 100),
      (.wsFlHz, 1025 / 100)]) 65535 0)
      = some (.done .ok, some [0, 0, 0xFF, 0xFF, 0xD8, 0x03, 0, 0, 0x83, 0xFF, 0x01, 0x80, 0xFF, 0x7F, 0x15, 0,
          0, 0, 0, 0, 0, 0], 0, 0, true) := by with_unfolding_all decide

/-- V86, V87, V88: the gate, the hold, and the gate before the hold. -/
theorem test_emit_gate_and_hold :
    emission .emit State.reset = some (.done .suppressed, none, 0, 0, false)
    ∧ emission .emit (busy defaultParams) = some (.hold, none, 0, 0, true)
    ∧ emission .emit (State.reset.withTx { Tx.zero with txBusy := true })
      = some (.done .suppressed, none, 0, 0, true) :=
  ⟨by with_unfolding_all decide, by with_unfolding_all decide, by with_unfolding_all decide⟩

/-- V89; and, without the handshake, no effect. -/
theorem test_txDone :
    emission .txDone (busy defaultParams) = some (.done .ok, none, 0, 0, false)
    ∧ emission .txDone (busy { defaultParams with txHandshake := false }) = some (.done .ok, none, 0, 0, true) :=
  ⟨by with_unfolding_all decide, by with_unfolding_all decide⟩

/-- V93 (E2). -/
theorem test_pktIn :
    (after (.pktIn e2) State.reset).map (fun t => (t.out, t.rx.snap, t.rx.valid, t.rx.haveLast, t.rx.lastSeq))
      = some (⟨.done .ok, none, some 0⟩,
          ⟨1, 5234, 983 / 10, 123 / 10, 521 / 10, 842 / 10, 98 / 100, 127 / 10, 0, 0, 0, 0⟩, true, true, 1) := by
  with_unfolding_all decide

/-- V95, V96, V98, V99, V100, V101: the lengths dropped and the gaps. -/
theorem test_pktIn_gaps :
    [(after (.pktIn (List.replicate 21 0)) State.reset).map (·.out),
      (after (.pktIn (List.replicate 23 0)) State.reset).map (·.out),
      (after (.pktIn (counted 3 0)) (received 1)).map (·.out),
      (after (.pktIn (counted 3 0)) (received 3)).map (·.out),
      (after (.pktIn (counted 2 0)) (received 3)).map (·.out),
      (after (.pktIn (counted 0 0)) (received 65535)).map (·.out)]
      = [some ⟨.done .dropLength, none, none⟩, some ⟨.done .dropLength, none, none⟩,
        some ⟨.done .ok, none, some 1⟩, some ⟨.done .ok, none, some 65535⟩,
        some ⟨.done .ok, none, some 65534⟩, some ⟨.done .ok, none, some 0⟩] := by with_unfolding_all decide

/-- R111: a flag stored as a field, a scaled and signed row for rpm, and a row that is read and not stored. -/
theorem test_custom_rows :
    decoded (.pe1 8 ⟨0x05, 0, 0, 0, 0, 0, 0, 0⟩)
      (built { defaultParams with fieldTable := { defaultFieldTable with
        pe1 := [⟨0, .flag, 3, .scaled, some (.val .tpsPct)⟩, ⟨0, .s16, 2, .scaled, some .rpm⟩, rowFlag 7] } })
      [.tpsPct] = some (.done .ok, true, [3])
    ∧ evalRow defaultOilCal ⟨0x05, 0, 0, 0, 0, 0, 0, 0⟩ ⟨0, .s16, 2, .scaled, some .rpm⟩ = some (.rpm 10)
    ∧ rowEnd (rowFlag 7) = 8 := by with_unfolding_all decide

/-- V103. -/
theorem test_framedEmit :
    emission (.framedEmit 1000) (holding framedParams (snapOf 5000 [(.fotMs, 22 / 10), (.ignDeg, 12)]) 0 0)
      = some (.done .ok, some v103, 0, 1, true) := by with_unfolding_all decide

/-- V105. -/
theorem test_framedEmit_corners :
    emission (.framedEmit 0) (holding framedParams (snapOf 0 [(.tpsPct, -5), (.mapKpa, 689476 / 1000),
      (.lambda, 70), (.battV, -15 / 10), (.coolantC, -160 / 9)]) 0 7)
      = some (.done .ok, some ([0xAA, 0x01, 0x08, 0x22, 0, 0, 0, 0, 0, 0, 0xCE, 0xFF, 0, 0, 0, 0, 0xFF, 0xFF, 0, 0,
          0xFF, 0xFF, 0, 0, 0x6A, 0xFF, 0x4E, 0xFF] ++ List.replicate 10 0), 0, 8, true) := by with_unfolding_all decide

/-- V107. -/
theorem test_framedIn :
    (after (.framedIn v103) (built framedParams)).map (fun t => (t.out, t.rx.fvalid, t.rx.fsnap))
      = some (⟨.done .ok, none, some 0⟩, true,
          ⟨1, 1000, 5000, 0, 22 / 10, 12, 0, 0, 0, 0, 0, 0, 0, 0, 0, 0, 0⟩) := by with_unfolding_all decide

/-- V109 to V114: each check of FRAMED_IN, and the first that fails. -/
theorem test_framedIn_checks :
    [[0xAA, 0x01, 0x02], 0xAB :: v103.tail, [0xAA, 0x02] ++ v103.drop 2, [0xAA, 0x01, 0x01, 0x21] ++ v103.drop 4,
      v103 ++ [0, 0], [0xAB, 0x02] ++ v103.drop 2].map
        (fun b => (after (.framedIn b) (built framedParams)).map (·.out.answer))
      = [some (.done .dropLength), some (.done .dropPreamble), some (.done .dropVersion),
        some (.done .dropDeclaredLength), some (.done .dropLength), some (.done .dropPreamble)] := by
  with_unfolding_all decide

/-- V119. -/
theorem test_reset :
    (after (.reset .tx) dead).map (fun t => (t.tx, t.rx)) = some (Tx.zero, dead.rx)
    ∧ (after (.reset .rx) dead).map (fun t => (t.tx, t.rx)) = some (dead.tx, Rx.zero) := by with_unfolding_all decide

/-- V117. -/
theorem test_halt :
    (after (.halt .tx) State.reset).map (fun t => (t.tx.halted, t.rx.halted)) = some (true, false)
    ∧ (after (.halt .rx) State.reset).map (fun t => (t.tx.halted, t.rx.halted)) = some (false, true) := by
  with_unfolding_all decide

/-- V92, V118. -/
theorem test_stuck :
    exec .emit dead = .fault (.stuck .tx) ∧ exec .txDone dead = .fault (.stuck .tx)
    ∧ exec (.halt .rx) dead = .fault (.stuck .rx) ∧ exec (.pe1 8 e1) dead = .fault (.stuck .tx) := by
  exact ⟨rfl, rfl, rfl, rfl⟩

/-- V115. -/
theorem test_framed_refused :
    exec (.framedEmit 0) State.reset = .refused .framedAbsent
    ∧ exec (.framedIn v103) State.reset = .refused .framedAbsent := ⟨rfl, rfl⟩

/-! ## Witnesses: concrete states and operands that meet the hypotheses of each statement -/

/-- A live state that has emitted the packet of E2, with an EMIT presented. -/
def linked : State :=
  { live defaultParams with emitted := [e2], port := [⟨.txCmd, [0x03]⟩] }

/-- A live state with P_FRAMED that has emitted the packet of E2 and the datagram of V103. -/
def linkedFramed : State := { live framedParams with emitted := [e2, v103] }

/-- A live state with one presented record. -/
def presented (p : Port) (bytes : List Byte) : State := (live defaultParams).withPort [⟨p, bytes⟩]

theorem coherent_linked : Coherent linked := by
  refine ⟨⟨?_, ?_, ?_, ?_, ?_, ?_, ?_⟩, ⟨?_, ?_, ?_, ?_, ?_, ?_, ?_, ?_, ?_, ?_⟩, fun p hp => .inl ?_⟩
  case refine_18 => cases List.mem_singleton.mp hp; rfl
  all_goals first
    | (intro h; exact absurd h (by decide))
    | exact fun _ => rfl
    | exact fun _ => ⟨rfl, rfl⟩
    | exact fun _ h => absurd h (by decide)

theorem coherent_linkedFramed : Coherent linkedFramed := by
  refine ⟨⟨?_, ?_, ?_, ?_, ?_, ?_, ?_⟩, ⟨?_, ?_, ?_, ?_, ?_, ?_, ?_, ?_, ?_, ?_⟩, fun p hp => ?_⟩
  case refine_18 =>
    rcases List.mem_cons.mp hp with rfl | hp
    · exact .inl rfl
    · cases List.mem_singleton.mp hp
      exact .inr ⟨rfl, rfl, rfl, rfl, rfl⟩
  all_goals first
    | (intro h; exact absurd h (by decide))
    | exact fun _ => rfl
    | exact fun _ => ⟨rfl, rfl⟩
    | exact fun _ h => absurd h (by decide)

/-- A statement that a step answers a next state. -/
theorem step_linked : ∃ t, step linked = .next t := ⟨_, rfl⟩

theorem witness_WordsOfBytesAndBack :
    (0x7FFF : Word16).toNat ≤ 32767 ∧ 32767 < (0x8000 : Word16).toNat
    ∧ s16 0x7FFF = 32767 ∧ s16 0x8000 = -32768 := by decide

/-- The examples of R24. -/
theorem witness_RoundsHalfAwayFromZero :
    IsTie (5 / 2) ∧ IsTie (-5 / 2) ∧ rhaz (5 / 2) = 3 ∧ rhaz (-5 / 2) = -3 ∧ rhaz (249 / 100) = 2 ∧ rhaz 0 = 0 :=
  ⟨by unfold IsTie; with_unfolding_all decide, by unfold IsTie; with_unfolding_all decide, by with_unfolding_all decide, by with_unfolding_all decide,
    by with_unfolding_all decide, by with_unfolding_all decide⟩

theorem witness_ClampAndRoundCommute :
    (0 : ℚ) < 1 / 10 ∧ quant (256 / 10) (1 / 10) .u8 = 255 ∧ quant (-32768 / 10) (1 / 10) .i16 = -32767 := by
  with_unfolding_all decide

theorem witness_StepKeepsTheInvariant : Coherent linked ∧ ∃ t, step linked = .next t :=
  ⟨coherent_linked, step_linked⟩

theorem witness_StepKeepsTheDomains :
    keepsDomains linked.cfg = true ∧ Nonneg linked ∧ ∃ t, step linked = .next t :=
  ⟨by with_unfolding_all decide, fun f _ => le_of_eq (Snapshot.get_zero f).symm, step_linked⟩

/-- The word that presents a TX command. -/
def word (i : Instr) : Presented := encode defaultParams i

/-- The counters of the packets of a run that ended in its final state. -/
def finalCounters : RunEnd → Option (List Word16)
  | .final _ packets => some (packets.map (pktWord · 0))
  | _ => none

/-- The counters of the packets of a run that is pending, and the command it holds. -/
def pendingCounters : RunEnd → Option (List Word16 × Presented)
  | .pending _ packets p => some (packets.map (pktWord · 0), p)
  | _ => none

/-- The counters of the packets of a stuck run. -/
def stuckCounters : RunEnd → Option (List Word16)
  | .stuck _ packets => some (packets.map (pktWord · 0))
  | _ => none

/-- R464: the same run from reset and from a halted block; a last command held; HALT. -/
theorem witness_ParametersAndEmittedPacketsStand :
    (∃ t, step linked = .next t ∧ t.emitted ≠ linked.emitted)
    ∧ wordsOf .tx ([.pe1 8 e1, .emit, .txDone, .emit].map word) = true ∧ State.reset.cfg = dead.cfg
    ∧ finalCounters (run .tx ([.pe1 8 e1, .emit, .txDone, .emit].map word) State.reset) = some [1, 2]
    ∧ finalCounters (run .tx ([.pe1 8 e1, .emit, .txDone, .emit].map word) dead) = some [1, 2]
    ∧ pendingCounters (run .tx ([.pe1 8 e1, .emit, .emit].map word) State.reset) = some ([1], word .emit)
    ∧ stuckCounters (run .tx ([.pe1 8 e1, .emit, .halt .tx].map word) State.reset) = some [1]
    ∧ (∀ p ∈ [.pe1 8 e1, .emit, .txDone, .emit].map word, decode State.reset.cfg p ≠ .ok (.reset .tx)) :=
  ⟨⟨_, rfl, by with_unfolding_all decide⟩, by decide, rfl, by with_unfolding_all decide,
    by with_unfolding_all decide, by with_unfolding_all decide, by with_unfolding_all decide, by decide⟩

theorem witness_WritersOfTheTxRegisters :
    ∃ t, exec (.pe1 8 e1) (live defaultParams) = .next t ∧ Instr.pe1 8 e1 ≠ .reset .tx :=
  ⟨_, rfl, by decide⟩

theorem witness_WritersOfTheRxRegisters :
    ∃ t, exec (.pktIn e2) State.reset = .next t ∧ Instr.pktIn e2 ≠ .reset .rx := ⟨_, rfl, by decide⟩

theorem witness_BlocksDoNotInterfere :
    (Instr.emit).block = .tx ∧ (Instr.pktIn e2).block = .rx
    ∧ (∃ t, exec .emit (live defaultParams) = .next t) ∧ ∃ t, exec (.pktIn e2) State.reset = .next t :=
  ⟨rfl, rfl, ⟨_, rfl⟩, ⟨_, rfl⟩⟩

theorem witness_StepRunsTheDecodedInstruction :
    (presented .txCmd [0x03]).port = ⟨.txCmd, [0x03]⟩ :: []
    ∧ decode (presented .txCmd [0x03]).cfg ⟨.txCmd, [0x03]⟩ = .ok .emit := ⟨rfl, rfl⟩

theorem witness_DecodeOfEncode :
    WellFormed defaultParams (.pe16 15 counting) = true
    ∧ encode defaultParams (.pe16 15 counting)
      = ⟨.frame, [0x48, 0xD0, 0xFF, 0x2C, 0x0F, 1, 2, 3, 4, 5, 6, 7, 8]⟩ := by decide

/-- One record for each clause: codes 9 and 15, the misdirected ones, the framed ones. -/
theorem witness_ReservedAndMisdirectedAreRefused :
    step (presented .txCmd [0x09]) = .refused (.reservedCode 9)
    ∧ step (presented .rxCmd [0x0F, 1]) = .refused (.reservedCode 15)
    ∧ step (presented .rxCmd [0x01]) = .refused (.misdirected 1)
    ∧ step (presented .rxCmd [0x07]) = .refused (.misdirected 7)
    ∧ step (presented .txCmd [0x06]) = .refused (.misdirected 6)
    ∧ step (presented .txCmd [0x08]) = .refused (.misdirected 8)
    ∧ step (presented .txCmd [0x07, 0, 0, 0, 0]) = .refused .framedAbsent
    ∧ step (presented .rxCmd [0x08]) = .refused .framedAbsent := ⟨rfl, rfl, rfl, rfl, rfl, rfl, rfl, rfl⟩

theorem witness_DispatchTableSelectsByWholeId :
    (∀ r r', isActive defaultParams r = true → isActive defaultParams r' = true →
      idOf defaultParams r = idOf defaultParams r' → r = r')
    ∧ isActive defaultParams .pe15 = true ∧ isActive basicParams .pe9 = true
    ∧ idOf defaultParams .pe15 = some 0x0CFFFE48 ∧ lookup defaultParams 0x0CFFFE48 = some .pe15
    ∧ lookup defaultParams 0x0CFFFF48 = none :=
  ⟨(Params.distinctIds_iff _).mp (by decide), by decide, by decide, by decide, by decide, by decide⟩

theorem witness_HaltCommandHaltsItsBlock :
    State.reset.tx.halted = false ∧ State.reset.rx.halted = false := ⟨rfl, rfl⟩

theorem witness_HaltedBlockIsStuck :
    isHalted dead (Instr.emit).block = true ∧ (∀ b, Instr.emit ≠ .reset b)
    ∧ decode dead.cfg ⟨.txCmd, [0x09]⟩ = .error (.reservedCode 9)
    ∧ step (dead.withPort [⟨.txCmd, [0x09]⟩]) = .fault (.stuck .tx) :=
  ⟨rfl, fun _ h => (nomatch h), rfl, rfl⟩

theorem witness_ConformingCommandsAnswer :
    (Accepts State.reset .emit ∧ keepsHandshake State.reset .emit = true)
    ∧ (Accepts (busy defaultParams) .txDone ∧ keepsHandshake (busy defaultParams) .txDone = true)
    ∧ Accepts (busy defaultParams) .emit ∧ keepsHandshake (busy defaultParams) .emit = false
    ∧ Accepts (built framedParams) (.framedIn v103) :=
  ⟨⟨⟨rfl, by decide⟩, rfl⟩, ⟨⟨rfl, by decide⟩, rfl⟩, ⟨rfl, by decide⟩, rfl, ⟨rfl, fun _ => rfl⟩⟩

/-- One frame for each check, with a DLC one below the minimum for the third. -/
theorem witness_FrameChecksInOrder :
    State.reset.tx.halted = false ∧ lookup defaultParams 0x0CFFF047 = none
    ∧ lookup defaultParams 0x0CFFF848 = some .pe9
    ∧ min (5 : BitVec 4).toNat 8 < minDlc defaultParams .pe9 := by with_unfolding_all decide

theorem witness_FrameInRunsTheSelectedMessage : lookup State.reset.cfg 0x0CFFD048 = some .pe16 := by decide

/-- A frame of exactly the minimum DLC, and one of DLC 15. -/
theorem witness_RecognizedFramesComplete :
    State.reset.tx.halted = false ∧ lookup State.reset.cfg 0x0CFFF648 = some .pe7
    ∧ minDlc State.reset.cfg .pe7 ≤ min (4 : BitVec 4).toNat 8
    ∧ (0xEB : Byte).getLsbD 3 = true ∧ lookup State.reset.cfg (regsId 0x67 0xEB 0xF0 0x48) = some .pe1
    ∧ minDlc State.reset.cfg .pe1 ≤ min ((0x4F : Byte).toNat % 16) 8 := by with_unfolding_all decide

theorem witness_ZeroFillIsUnobservable :
    minDlc defaultParams .pe7 ≤ clampDlc 4 ∧ minDlc defaultParams .pe1 ≤ clampDlc 15 := by with_unfolding_all decide

theorem witness_SameFrameTwice :
    ∃ t, exec (.frameIn true 0x0CFFF048 8 e1) State.reset = .next t ∧ t.tx.snap.rpm = 5000 :=
  ⟨_, rfl, by with_unfolding_all decide⟩

theorem witness_FrameReadsOnlyItsOperands :
    State.reset.cfg = (busy defaultParams).cfg ∧ State.reset.tx.halted = false
    ∧ (busy defaultParams).tx.halted = false := ⟨rfl, rfl, rfl⟩

/-- Every message is ready from reset. -/
theorem witness_Ready (r : PE) : Ready State.reset r := ⟨rfl, rfl, by cases r <;> rfl⟩

/-- The oil row is on PE3, and reaches no other message's DLC. -/
theorem witness_OilFits (r : PE) (h : r ≠ .pe3) (dlc : BitVec 4) : OilFits State.reset.cfg r dlc :=
  fun e => absurd e.symm h

theorem witness_Pe1WritesEngineFields : Ready State.reset .pe1 ∧ 8 ≤ (8 : BitVec 4).toNat :=
  ⟨witness_Ready .pe1, by decide⟩

/-- Both flags at a DLC of exactly 7; both sides of the lambda policy. -/
theorem witness_Pe2WritesPressuresAndLambda :
    Ready State.reset .pe2 ∧ Ready (built { defaultParams with lambdaSource := .pe9Only }) .pe2
    ∧ 7 ≤ (7 : BitVec 4).toNat ∧ (0xFF : Byte).toNat % 2 = 1 ∧ (0xFE : Byte).toNat % 2 = 0
    ∧ State.reset.cfg.lambdaSource ≠ .pe9Only :=
  ⟨witness_Ready .pe2, ⟨rfl, rfl, rfl⟩, by decide, by decide, by decide, by decide⟩

/-- EXTENDED with the oil row on PE3 and moved to PE7; BASIC at a DLC of exactly 2; the default calibration. -/
theorem witness_Pe3WritesAnalogInputsAndOil :
    Ready State.reset .pe3 ∧ OilFits State.reset.cfg .pe3 8
    ∧ Ready (built movedOil) .pe3 ∧ OilFits movedOil .pe3 8 ∧ movedOil.variant = .extended
    ∧ Ready (built basicParams) .pe3 ∧ OilFits basicParams .pe3 2 ∧ basicParams.oilSource.frame = .pe3
    ∧ defaultParams.distinctIds = true ∧ defaultParams.oilCal = defaultOilCal ∧ defaultParams.oilCal.divisor ≠ 0 :=
  ⟨witness_Ready .pe3, fun _ => by decide, ⟨rfl, rfl, rfl⟩, fun h => absurd h (by decide), rfl,
    ⟨rfl, rfl, rfl⟩, fun _ => by decide, rfl, by decide, rfl, by with_unfolding_all decide⟩

theorem witness_Pe4WritesAnalogInputs : Ready State.reset .pe4 ∧ 8 ≤ (8 : BitVec 4).toNat :=
  ⟨witness_Ready .pe4, by decide⟩
theorem witness_Pe5WritesWheelSpeeds : Ready State.reset .pe5 ∧ 8 ≤ (8 : BitVec 4).toNat :=
  ⟨witness_Ready .pe5, by decide⟩

theorem witness_Pe6WritesBatteryAndTemperatures :
    Ready State.reset .pe6 ∧ 7 ≤ (7 : BitVec 4).toNat ∧ (1 : Byte).toNat % 2 = 1 ∧ (0 : Byte).toNat % 2 = 0 :=
  ⟨witness_Ready .pe6, by decide, by decide, by decide⟩

theorem witness_Pe7AndPe15WriteTwoFields :
    Ready State.reset .pe7 ∧ Ready State.reset .pe15 ∧ 4 ≤ (4 : BitVec 4).toNat :=
  ⟨witness_Ready .pe7, witness_Ready .pe15, by decide⟩

theorem witness_Pe8WritesRates : Ready State.reset .pe8 ∧ 8 ≤ (8 : BitVec 4).toNat :=
  ⟨witness_Ready .pe8, by decide⟩

theorem witness_Pe9WritesLambdas :
    Ready State.reset .pe9 ∧ Ready (built { defaultParams with lambdaSource := .pe2Only }) .pe9
    ∧ 6 ≤ (6 : BitVec 4).toNat ∧ State.reset.cfg.lambdaSource ≠ .pe2Only :=
  ⟨witness_Ready .pe9, ⟨rfl, rfl, rfl⟩, by decide, by decide⟩

theorem witness_Pe10WritesDutyCycles : Ready State.reset .pe10 ∧ 8 ≤ (8 : BitVec 4).toNat :=
  ⟨witness_Ready .pe10, by decide⟩

theorem witness_Pe11WritesSlipAndTraction : Ready State.reset .pe11 ∧ 6 ≤ (6 : BitVec 4).toNat :=
  ⟨witness_Ready .pe11, by decide⟩

theorem witness_Pe12AndPe13WriteFourTenths : Ready State.reset .pe12 ∧ Ready State.reset .pe13 ∧ 8 ≤ (8 : BitVec 4).toNat :=
  ⟨witness_Ready .pe12, witness_Ready .pe13, by decide⟩

theorem witness_Pe14AndPe16WriteFourTenths :
    Ready State.reset .pe14 ∧ Ready State.reset .pe16 ∧ State.reset.cfg.pe16Id = some 0x0CFFD048
    ∧ State.reset.cfg.distinctIds = true :=
  ⟨witness_Ready .pe14, witness_Ready .pe16, rfl, by decide⟩

/-- V17, V18, V19, V20: the three policies. -/
theorem witness_LambdaPolicyAndLastWriter :
    Ready State.reset .pe2 ∧ Ready State.reset .pe9 ∧ State.reset.cfg.lambdaSource = .both
    ∧ Ready (built { defaultParams with lambdaSource := .pe2Only }) .pe2
    ∧ Ready (built { defaultParams with lambdaSource := .pe2Only }) .pe9
    ∧ Ready (built { defaultParams with lambdaSource := .pe9Only }) .pe2
    ∧ Ready (built { defaultParams with lambdaSource := .pe9Only }) .pe9 :=
  ⟨witness_Ready .pe2, witness_Ready .pe9, rfl, ⟨rfl, rfl, rfl⟩,
    ⟨rfl, rfl, rfl⟩, ⟨rfl, rfl, rfl⟩, ⟨rfl, rfl, rfl⟩⟩

/-- The oil row on PE7 at offset 6, which raises its MinDlc from 4 to 8, and PE3 without it. -/
theorem witness_OilSourceOverride :
    movedOil.oilSource ≠ defaultOilSource ∧ isActive movedOil .pe7 = true ∧ minDlc movedOil .pe7 = 8
    ∧ minDlc movedOil .pe3 ≤ min (8 : BitVec 4).toNat 8 ∧ 8 ≤ (8 : BitVec 4).toNat
    ∧ Ready (built movedOil) .pe7 ∧ OilFits movedOil .pe7 8 ∧ ¬ OilFits movedOil .pe7 7 :=
  ⟨by decide, rfl, by decide, by decide, by decide, ⟨rfl, rfl, rfl⟩, fun _ => by decide,
    fun h => absurd (h rfl) (by decide)⟩

theorem witness_MinimumDlcs :
    defaultParams.variant = .extended ∧ basicParams.variant = .basic ∧ isActive defaultParams .pe7 = true
    ∧ minDlc { basicParams with oilSource := ⟨.pe3, 4⟩ } .pe3 = 6
    ∧ minDlc { basicParams with oilSource := ⟨.pe5, 6⟩ } .pe3 = 2
    ∧ min (3 : BitVec 4).toNat 8 < minDlc defaultParams .pe7 := by with_unfolding_all decide

theorem witness_LeftOutMessagesAreUnknown :
    (basicParams.variant = .basic ∧ Write.val .oilPsi 50 ∈ routine basicParams .pe3 ⟨0xC4, 0x09, 0, 0, 0, 0, 0, 0⟩)
    ∧ ((built basicParams).cfg.variant = .basic ∧ PE.pe4 ∉ [PE.pe1, .pe2, .pe3, .pe5, .pe6, .pe9])
    ∧ (built { defaultParams with pe16Id := none }).cfg.pe16Id = none
    ∧ ∀ r, isActive State.reset.cfg r = true → idOf State.reset.cfg r ≠ some 0x0CFFFF48 :=
  ⟨⟨rfl, by with_unfolding_all decide⟩, ⟨rfl, by decide⟩, rfl, fun r _ => by cases r <;> decide⟩

theorem witness_EmitIsSuppressedOrHeld :
    State.reset.tx.halted = false ∧ State.reset.tx.hraf = false ∧ (busy defaultParams).tx.hraf = true
    ∧ (busy defaultParams).cfg.txHandshake = true ∧ (busy defaultParams).tx.txBusy = true :=
  ⟨rfl, rfl, rfl, rfl, rfl⟩

/-- With the handshake and no packet outstanding; and without the handshake. -/
theorem witness_MayEmit :
    MayEmit (live framedParams) ∧ MayEmit (busy { defaultParams with txHandshake := false }) :=
  ⟨⟨rfl, rfl, fun _ => rfl⟩, ⟨rfl, rfl, fun h => absurd h (by decide)⟩⟩

theorem witness_EmitPacksTheSnapshot : MayEmit (holding defaultParams Snapshot.zero 65535 0) :=
  ⟨rfl, rfl, fun _ => rfl⟩

theorem witness_TxDoneClearsBusy : (busy defaultParams).tx.halted = false ∧ dead.tx.halted = true := ⟨rfl, rfl⟩

theorem witness_PacketRoundTrip : MayEmit (live defaultParams) ∧ State.reset.rx.halted = false :=
  ⟨⟨rfl, rfl, fun _ => rfl⟩, rfl⟩

/-- The three ties of R240, each in a field its message writes, at its row of the packet. -/
theorem witness_TiesReachableFromFrames :
    (⟨.val .battV, 1 / 10, .u8⟩ ∈ packetLayout
      ∧ .val .battV (253 / 20) ∈ routine defaultParams .pe6 ⟨0xF1, 0x04, 0, 0, 0, 0, 1, 0⟩
      ∧ IsTie (253 / 20 / (1 / 10)))
    ∧ (⟨.val .mapKpa, 1 / 10, .u16⟩ ∈ packetLayout
      ∧ .val .mapKpa (1967 / 20) ∈ routine defaultParams .pe2 ⟨0, 0, 0x6B, 0x26, 0, 0, 1, 0⟩
      ∧ IsTie (1967 / 20 / (1 / 10)))
    ∧ (⟨.val .oilPsi, 1 / 10, .i16⟩ ∈ packetLayout
      ∧ .val .oilPsi (-249 / 20) ∈ routine defaultParams .pe3 ⟨2, 0, 0, 0, 0, 0, 0, 0⟩
      ∧ IsTie (-249 / 20 / (1 / 10))) := by
  unfold IsTie; with_unfolding_all decide

theorem witness_PktInDecodesThePacket : State.reset.rx.halted = false ∧ e2.length = 22 := ⟨rfl, rfl⟩

/-- V95, V96, V97. -/
theorem witness_PktInDropsOtherLengths :
    (List.replicate 21 (0 : Byte)).length ≠ 22 ∧ (List.replicate 23 (0 : Byte)).length ≠ 22
    ∧ ([] : List Byte).length ≠ 22 := by decide

theorem witness_PktInReportsTheGap :
    State.reset.cfg.rxGap = true ∧ State.reset.rx.haveLast = false ∧ (received 65535).rx.haveLast = true
    ∧ (received 65535).rx.halted = false ∧ (counted 0 0).length = 22
    ∧ (built { defaultParams with rxGap := false }).cfg.rxGap = false := ⟨rfl, rfl, rfl, rfl, rfl, rfl⟩

/-- The emitted packet twice, and a corrupted one; and, with P_FRAMED, packets of both lengths. -/
theorem witness_EveryDeliveredPacketIsAccepted :
    (Coherent linked ∧ linked.cfg.framed = false ∧ linked.rx.halted = false
      ∧ AdmissibleCorrupted linked.emitted [e2, counted 9 9, e2] ∧ counted 9 9 ∈ [e2, counted 9 9, e2])
    ∧ (Coherent linkedFramed ∧ linkedFramed.cfg.framed = true ∧ linkedFramed.rx.halted = false
      ∧ Admissible linkedFramed.emitted [v103, e2, v103]) := by
  refine ⟨⟨coherent_linked, rfl, rfl, fun p hp => ⟨e2, List.mem_singleton.mpr rfl, ?_⟩, by decide⟩,
    coherent_linkedFramed, rfl, rfl, by unfold Admissible; decide⟩
  simp only [List.mem_cons, List.not_mem_nil, or_false] at hp
  rcases hp with rfl | rfl | rfl <;> rfl

theorem witness_FramedCommandsNeedFramed :
    State.reset.cfg.framed = false ∧ State.reset.tx.halted = false ∧ State.reset.rx.halted = false := ⟨rfl, rfl, rfl⟩

theorem witness_FramedEmitIsSuppressedOrHeld :
    (built framedParams).cfg.framed = true ∧ (built framedParams).tx.hraf = false
    ∧ (busy framedParams).tx.hraf = true ∧ (busy framedParams).cfg.txHandshake = true
    ∧ (busy framedParams).tx.txBusy = true := ⟨rfl, rfl, rfl, rfl, rfl⟩

theorem witness_FramedEmitPacksTheSnapshot :
    MayEmit (holding framedParams Snapshot.zero 0 255) ∧ framedParams.framed = true :=
  ⟨⟨rfl, rfl, fun _ => rfl⟩, rfl⟩

/-- One datagram for each clause, at lengths 3, 4, 37 and 39. -/
theorem witness_FramedInChecksInOrder :
    ([0xAA, 0x01, 0x01] : List Byte).length < 4
    ∧ (4 ≤ ([0xAB, 1, 1, 34] : List Byte).length ∧ pktByte [0xAB, 1, 1, 34] 0 ≠ 0xAA)
    ∧ (pktByte [0xAA, 2, 1, 34] 0 = 0xAA ∧ pktByte [0xAA, 2, 1, 34] 1 ≠ 0x01)
    ∧ (pktByte [0xAA, 1, 1, 33] 1 = 0x01 ∧ pktByte [0xAA, 1, 1, 33] 3 ≠ 34)
    ∧ (pktByte v103 3 = 34 ∧ (v103.take 37).length ≠ 38 ∧ (v103 ++ [0]).length ≠ 38) := by decide

theorem witness_FramedInDecodesTheDatagram :
    (built framedParams).rx.halted = false ∧ v103.length = 38 ∧ pktByte v103 0 = 0xAA ∧ pktByte v103 1 = 0x01
    ∧ pktByte v103 3 = 34 ∧ ((built framedParams).withRx (Rx.zero.setFramedLast true 255)).rx.fhaveLast = true
    ∧ (built { framedParams with rxGap := false }).cfg.rxGap = false := by decide

theorem witness_FramedRoundTrip :
    MayEmit (live framedParams) ∧ (live framedParams).cfg.framed = true
    ∧ (built framedParams).rx.halted = false ∧ (built framedParams).cfg.framed = true :=
  ⟨⟨rfl, rfl, fun _ => rfl⟩, rfl, rfl, rfl⟩

/-! ## The front end -/

/-- A controller with every register 0. -/
def clearController : Controller :=
  ⟨0, 0, 0, 0, 0, 0, 0, 0, 0, 0, Vector.replicate 13 0, Vector.replicate 13 0⟩

/-- The receive-buffer registers of E1's frame with an engine speed of `n`. -/
def e1Registers (n : Byte) : RxBuffer := #v[0x67, 0xEB, 0xF0, 0x48, 0x08, n, 0, 0, 0, 0x16, 0, 0x78, 0]

/-- Flags clear, three arrivals before the poll; a CANSTAT that confirms configuration mode and one that
does not. -/
theorem witness_FrontEndPresentsInOrder :
    clearController.canintf.toNat % 4 = 0 ∧ clearController.eflg.toNat / 64 = 0
    ∧ [(BufferNo.rxb0, e1Registers 1), (.rxb1, e1Registers 2), (.rxb0, e1Registers 3)].length = 3
    ∧ (0x80 : Byte).toNat / 32 = 4 ∧ (0x9F : Byte).toNat / 32 = 4 ∧ (0x00 : Byte).toNat / 32 = 0 := by decide

/-- R411, R412: addresses of both ends of a buffer, and a masked write. -/
theorem test_controller_registers :
    [Reg.caninte, .canintf, .eflg, .rxb .rxb0 0, .rxb .rxb0 12, .rxb .rxb1 0, .rxb .rxb1 12].map Reg.addr
      = [0x2B, 0x2C, 0x2D, 0x61, 0x6D, 0x71, 0x7D]
    ∧ masked 0x9A 0x60 0xFF = 0xFA ∧ masked 0xFF 0xC0 0 = 0x3F := by decide

/-- R458: stale bytes at and above a DLC of 6 are presented as 0 in an assembled frame. -/
theorem test_assembled_zero_fill :
    FrameForm.assembled.instr #v[0x67, 0xEB, 0xF8, 0x48, 0x06, 0x62, 0, 0x64, 0, 0x5F, 0, 0xAA, 0xBB]
      = .frameIn true 0x0CFFF848 6 ⟨0x62, 0, 0x64, 0, 0x5F, 0, 0, 0⟩ := by decide

end Sys2Proof.Tests
end

/-! ## Numbers (00_scope.md) -/

namespace Sys2Proof.Machine

section Rounding
variable {q : ℚ}

/-- From 0 up `rhaz` is Mathlib's `round`, which sends ties up (R24). -/
theorem rhaz_of_nonneg (h : 0 ≤ q) : rhaz q = round q := by
  rw [round_eq]
  exact if_pos h

/-- Below 0 `rhaz` is `round` mirrored (R24). -/
theorem rhaz_of_neg (h : q < 0) : rhaz q = -round (-q) := by
  rw [round_eq]
  exact if_neg (not_le.mpr h)

/-- `rhaz` is symmetric about 0 (R24). -/
theorem rhaz_neg (q : ℚ) : rhaz (-q) = -rhaz q := by
  rcases lt_trichotomy q 0 with h | rfl | h
  · rw [rhaz_of_neg h, rhaz_of_nonneg (by linarith), neg_neg]
  · simp [rhaz_of_nonneg]
  · rw [rhaz_of_nonneg h.le, rhaz_of_neg (by linarith), neg_neg]

/-- `rhaz` rounds the magnitude (R24). -/
theorem abs_rhaz (q : ℚ) : |(rhaz q : ℚ)| = (round |q| : ℚ) := by
  have nonneg : ∀ {x : ℚ}, 0 ≤ x → |(rhaz x : ℚ)| = (round |x| : ℚ) := by
    intro x h
    have hr : (0 : ℤ) ≤ round x := by
      rw [round_eq]
      exact Int.floor_nonneg.mpr (by linarith)
    rw [rhaz_of_nonneg h, abs_of_nonneg h, abs_of_nonneg (by exact_mod_cast hr)]
  rcases le_total 0 q with h | h
  · exact nonneg h
  · simpa [rhaz_neg] using nonneg (neg_nonneg.mpr h)

/-- `rhaz` moves a value by at most 1/2 (R24). -/
theorem abs_rhaz_sub_le (q : ℚ) : |(rhaz q : ℚ) - q| ≤ 1 / 2 := by
  rcases le_or_gt 0 q with h | h
  · rw [rhaz_of_nonneg h, abs_sub_comm]
    exact abs_sub_round q
  · have mirrored : (rhaz q : ℚ) - q = -q - round (-q) := by
      rw [rhaz_of_neg h]
      push_cast
      ring
    rw [mirrored]
    exact abs_sub_round (-q)

/-- An integer is its own rounding (R25). -/
@[simp] theorem rhaz_intCast (n : ℤ) : rhaz (n : ℚ) = n := by
  rcases le_or_gt 0 (n : ℚ) with h | h
  · rw [rhaz_of_nonneg h, round_intCast]
  · rw [rhaz_of_neg h, ← Int.cast_neg, round_intCast, neg_neg]

/-- Rounding keeps order (R25): an odd function that does so from 0 up. -/
theorem rhaz_monotone : Monotone rhaz :=
  monotone_of_odd_of_monotoneOn_nonneg rhaz_neg fun x hx y hy h => by
    rw [rhaz_of_nonneg hx, rhaz_of_nonneg hy, round_eq, round_eq]
    exact Int.floor_mono (by linarith)

/-- The magnitude of a tie is a tie. -/
theorem IsTie.abs (h : IsTie q) : IsTie |q| := by
  rcases abs_choice q with e | e <;> rw [e]
  · exact h
  · have hq : Int.fract q = 1 / 2 := h
    unfold IsTie
    rw [Int.fract_neg (by rw [hq]; norm_num), hq]
    norm_num

/-- `round` sends a tie up by 1/2. -/
theorem round_of_isTie (h : IsTie q) : (round q : ℚ) = q + 1 / 2 := by
  have hq : q + 1 / 2 = ((⌊q⌋ + 1 : ℤ) : ℚ) := by
    have := Int.floor_add_fract q
    rw [show Int.fract q = 1 / 2 from h] at this
    push_cast
    linarith
  rw [round_eq, hq, Int.floor_intCast]

end Rounding

/-- Settles O2: `rhaz` is `round` of the magnitude with the sign put back, and `round` sends a tie up. -/
theorem roundsHalfAwayFromZero : Obligations.RoundsHalfAwayFromZero := fun q =>
  ⟨fun h => (rhaz_of_nonneg h).trans (round_eq q),
    fun h => (rhaz_of_neg h).trans (congrArg Neg.neg (round_eq (-q))),
    abs_rhaz_sub_le q, rhaz_neg q,
    fun h => (abs_rhaz q).trans (round_of_isTie h.abs)⟩

/-- R25: rounding a clamped value is clamping its rounding, as rounding keeps order and fixes the bounds. -/
theorem rhaz_clamp (lo hi : ℤ) (q : ℚ) : rhaz (min (hi : ℚ) (max (lo : ℚ) q)) = clamp lo hi (rhaz q) := by
  rw [rhaz_monotone.map_min, rhaz_monotone.map_max, rhaz_intCast, rhaz_intCast, clamp]

/-- Settles O3, by the monotonicity of `rhaz`. -/
theorem clampAndRoundCommute : Obligations.ClampAndRoundCommute :=
  ⟨fun _ _ _ => rfl, ⟨rfl, rfl, rfl, rfl, rfl, rfl⟩,
    fun v s t _ => ⟨rfl, (rhaz_clamp t.lo t.hi (v / s)).symm, quant_bounds v s t⟩⟩

/-- R20: the value of a joined word. -/
theorem u16_toNat (lo hi : Byte) : (u16 lo hi).toNat = hi.toNat * 256 + lo.toNat := by
  have := lo.isLt
  have := hi.isLt
  rw [u16, BitVec.toNat_ofNat]
  omega

/-- R21, the lower half of the words. -/
theorem s16_of_le {v : Word16} (h : v.toNat ≤ 32767) : s16 v = v.toNat := if_pos h

/-- R21, the upper half of the words. -/
theorem s16_of_gt {v : Word16} (h : 32767 < v.toNat) : s16 v = (v.toNat : Int) - 65536 := if_neg (by omega)

/-- R22: the two bytes of a word as numbers. -/
theorem le16_toNat (w : Word16) : (le16 w).map BitVec.toNat = [w.toNat % 256, w.toNat / 256] := by
  have := w.isLt
  simp only [le16, List.map_cons, List.map_nil, BitVec.extractLsb'_toNat, Nat.shiftRight_eq_div_pow,
    List.cons.injEq, and_true]
  omega

/-- R22: a word's two bytes at the head of a packet read back as the word. -/
@[simp] theorem pktWord_le16_append (w : Word16) (b : List Byte) : pktWord (le16 w ++ b) 0 = w := u16_of_le16 w

/-- R22: the four bytes of a 32-bit word as numbers. -/
theorem le32_toNat (w : Word32) : (le32 w).map BitVec.toNat
    = [w.toNat % 256, w.toNat / 256 % 256, w.toNat / 65536 % 256, w.toNat / 16777216] := by
  have := w.isLt
  simp only [le32, split32, List.map_cons, List.map_nil, BitVec.extractLsb'_toNat, Nat.shiftRight_eq_div_pow,
    List.cons.injEq, and_true, true_and]
  omega

/-- Settles O1, from the value of a joined word and the bytes of a split one. -/
theorem wordsOfBytesAndBack : Obligations.WordsOfBytesAndBack :=
  ⟨u16_toNat, fun _ => ⟨s16_of_le, s16_of_gt⟩,
    fun w => ⟨le16_toNat w, by simpa using pktWord_le16_append w []⟩,
    fun r h₁ h₂ => ⟨by rw [BitVec.toNat_ofInt]; omega, s16_ofInt h₁ h₂⟩, le32_toNat⟩

/-! ## The step and the framed commands (R6, R81, R290) -/

/-- R6: a step is the instruction that the next record decodes to. -/
theorem step_of_decode {s : State} {p : Presented} {rest : List Presented} {i : Instr}
    (hp : s.port = p :: rest) (hd : decode s.cfg p = .ok i) : step s = exec i (s.withPort rest) := by
  simp only [step, hp, hd]

/-- Settles O12, by the equation of a step whose record decodes. -/
theorem stepRunsTheDecodedInstruction : Obligations.StepRunsTheDecodedInstruction :=
  fun _ _ _ _ => step_of_decode

/-! The arms of `exec` for the datagram commands and the framed emission. -/

theorem exec_pktIn (b : List Byte) (s : State) : exec (.pktIn b) s = execPktIn b s := rfl

theorem exec_framedEmit (ts : Word32) (s : State) : exec (.framedEmit ts) s = execFramedEmit ts s := rfl

theorem exec_framedIn (b : List Byte) (s : State) : exec (.framedIn b) s = execFramedIn b s := rfl

/-- R290: without P_FRAMED the guard refuses. -/
@[simp] theorem ifFramed_absent {s : State} (h : s.cfg.framed = false) (k : Result) :
    ifFramed s k = .refused .framedAbsent := by simp only [ifFramed, h]

/-- With P_FRAMED the guard is nothing. -/
@[simp] theorem ifFramed_present {s : State} (h : s.cfg.framed = true) (k : Result) : ifFramed s k = k := by
  simp only [ifFramed, h]

/-- Settles O54: both commands pass the halted check and then meet the P_FRAMED guard. -/
theorem framedCommandsNeedFramed : Obligations.FramedCommandsNeedFramed := by
  intro s ts b hf
  constructor
  · intro hh
    rw [exec_framedEmit, execFramedEmit, unlessHalted_running (b := .tx) hh, ifFramed_absent hf]
  · intro hh
    rw [exec_framedIn, execFramedIn, unlessHalted_running (b := .rx) hh, ifFramed_absent hf]

/-! ## Delivered packets (R7, R83, R265, R293) -/

/-- The state after PKT_IN of a 22-byte datagram (R260). -/
abbrev packetAcceptedState (b : List Byte) (s : State) : State :=
  (s.withRx ((s.rx.accept (snapshotOfPacket b)).setLast s.cfg.rxGap (pktWord b 0))).endedWithGap
    (gap16 s.cfg.rxGap s.rx.haveLast s.rx.lastSeq (pktWord b 0))

/-- PKT_IN takes every datagram of 22 bytes, whatever they are (R260, R265). -/
theorem exec_pktIn_of_length {s : State} {b : List Byte} (hh : s.rx.halted = false) (hl : b.length = 22) :
    exec (.pktIn b) s = .next (packetAcceptedState b s) := by
  rw [exec_pktIn, execPktIn, unlessHalted_running (b := .rx) hh, if_pos hl]

/-- The state after FRAMED_IN of a datagram that passes the checks (R293). -/
abbrev datagramAcceptedState (b : List Byte) (s : State) : State :=
  (s.withRx ((s.rx.acceptFramed (snapshotOfDatagram b)).setFramedLast s.cfg.rxGap (pktByte b 2))).endedWithGap
    (gap8 s.cfg.rxGap s.rx.fhaveLast s.rx.flastSeq8 (pktByte b 2))

/-- A datagram passes every check of R293 exactly when it has 38 bytes and the header of R123. -/
theorem datagramFault_eq_none {b : List Byte} :
    datagramFault b = none ↔
      b.length = 38 ∧ pktByte b 0 = 0xAA ∧ pktByte b 1 = 0x01 ∧ pktByte b 3 = 34 := by
  unfold datagramFault
  constructor
  · intro h
    split_ifs at h with _ h0 h1 h3 hl
    exact ⟨not_not.mp hl, not_not.mp h0, not_not.mp h1, not_not.mp h3⟩
  · rintro ⟨hl, h0, h1, h3⟩
    simp [hl, h0, h1, h3]

/-- FRAMED_IN takes every datagram that passes the checks (R293). -/
theorem exec_framedIn_of_passes {s : State} {b : List Byte} (hh : s.rx.halted = false)
    (hf : s.cfg.framed = true) (hb : datagramFault b = none) :
    exec (.framedIn b) s = .next (datagramAcceptedState b s) := by
  rw [exec_framedIn, execFramedIn, unlessHalted_running (b := .rx) hh, ifFramed_present hf, hb]

/-- A 22-byte datagram is read as a packet. -/
theorem readsAs_packet {s : State} {p : List Byte} (hh : s.rx.halted = false) (hl : p.length = 22) :
    ReadsAs s .packet p :=
  ⟨decode_presentDatagram s.cfg .packet p, packetAcceptedState p s, exec_pktIn_of_length hh hl, rfl,
    fun _ => rfl, nofun⟩

/-- A datagram that passes the checks is read as a framed one. -/
theorem readsAs_framed {s : State} {p : List Byte} (hh : s.rx.halted = false) (hf : s.cfg.framed = true)
    (hp : datagramFault p = none) : ReadsAs s .framed p :=
  ⟨decode_presentDatagram s.cfg .framed p, datagramAcceptedState p s, exec_framedIn_of_passes hh hf hp, rfl,
    nofun, fun _ => rfl⟩

/-- Without P_FRAMED every packet handed out has 22 bytes (R121, R290). -/
theorem PacketShape.length_of_unframed {p : List Byte} (h : PacketShape false p) : p.length = 22 := by
  rcases h with hl | ⟨hf, -⟩
  · exact hl
  · cases hf

/-- Settles O53: the invariant gives the shape of every emitted packet, and each shape has the command that
accepts it. -/
theorem everyDeliveredPacketIsAccepted : Obligations.EveryDeliveredPacketIsAccepted := by
  intro s delivered p hc hh hp
  constructor
  · intro hf hadm
    obtain ⟨q, hq, hlen⟩ := hadm p hp
    have hshape : PacketShape false q := hf ▸ hc.packets q hq
    exact readsAs_packet hh (hlen.trans hshape.length_of_unframed)
  · intro hadm
    rcases hc.packets p (hadm p hp) with hl | ⟨hf, hl, header⟩
    · exact .inl ⟨hl, readsAs_packet hh hl⟩
    · exact .inr ⟨hl, readsAs_framed hh hf (datagramFault_eq_none.mpr ⟨hl, header⟩)⟩

end Sys2Proof.Machine

/-! ## What an instruction can do -/

namespace Sys2Proof.Machine

/-- All that an instruction which answers a next state can do to `s`: one case per kind of outcome, so that a
proof about every instruction is a case split over what happened and not over the opcode table. Which code a
dropped command answers is in the lemmas about each operation (`frame_next` and the others). -/
inductive Effect (s : State) : Instr → State → Prop
  /-- Only a code is answered: a frame or datagram is dropped, or an emission suppressed. -/
  | dropped (i : Instr) (c : Code) : Effect s i (s.ended c)
  /-- An emission meets the hold (R235). -/
  | held (i : Instr) : s.cfg.txHandshake = true → s.tx.txBusy = true → Effect s i s.held
  | recognized (i : Instr) (r : PE) (dlc : BitVec 4) (data : Payload) :
      isFrame i = true → Effect s i (recognizedState r dlc data s)
  | resetTx : Effect s (.reset .tx) ((s.withTx Tx.zero).ended .ok)
  | resetRx : Effect s (.reset .rx) ((s.withRx Rx.zero).ended .ok)
  | haltTx : Effect s (.halt .tx) ((s.withTx s.tx.halt).ended .ok)
  | haltRx : Effect s (.halt .rx) ((s.withRx s.rx.halt).ended .ok)
  | emitted : s.tx.hraf = true → s.cfg.txHandshake = false ∨ s.tx.txBusy = false →
      Effect s .emit (emittedState s)
  | txDone : Effect s .txDone ((s.withTx (s.tx.setBusy s.cfg.txHandshake false)).ended .ok)
  | framedEmitted (ts : Word32) :
      s.cfg.framed = true → s.tx.hraf = true → s.cfg.txHandshake = false ∨ s.tx.txBusy = false →
      Effect s (.framedEmit ts) (framedEmittedState ts s)
  | packetAccepted (b : List Byte) : b.length = 22 → Effect s (.pktIn b) (packetAcceptedState b s)
  | datagramAccepted (b : List Byte) :
      s.cfg.framed = true → datagramFault b = none → Effect s (.framedIn b) (datagramAcceptedState b s)

section Effects
variable {i : Instr} {s t : State}

/-- A raw frame is dropped or recognized (R140). -/
theorem effect_of_frame {ext : Bool} {id : CanId} {dlc : BitVec 4} {data : Payload} (hi : isFrame i = true)
    (h : frame ext id dlc data s = .next t) : Effect s i t := by
  rcases (frame_next h).2 with ⟨-, rfl⟩ | ⟨-, -, rfl⟩ | ⟨-, r, -, -, rfl⟩ | ⟨-, r, -, -, rfl⟩
  · exact .dropped i _
  · exact .dropped i _
  · exact .dropped i _
  · exact .recognized i r dlc data hi

/-- A frame with a message's key is dropped or recognized (R140). -/
theorem effect_of_keyedFrame {r : PE} {dlc : BitVec 4} {data : Payload} (hi : isFrame i = true)
    (h : keyedFrame r dlc data s = .next t) : Effect s i t := by
  rcases (keyedFrame_next h).2 with ⟨-, rfl⟩ | ⟨-, -, rfl⟩ | ⟨-, -, rfl⟩
  · exact .dropped i _
  · exact .dropped i _
  · exact .recognized i r dlc data hi

/-- Every next state is one of the effects. -/
theorem effect_of_exec (h : exec i s = .next t) : Effect s i t := by
  cases i with
  | reset b => cases b <;> cases h <;> constructor
  | frameIn ext id dlc data => exact effect_of_frame rfl h
  | frameInRegs sidh sidl eid8 eid0 dlcreg d =>
    rw [exec_frameInRegs] at h
    exact effect_of_frame rfl h
  | emit =>
    rcases (execEmit_next h).2 with ⟨-, rfl⟩ | ⟨-, hp, hb, rfl⟩ | ⟨hg, hb, rfl⟩
    · exact .dropped _ _
    · exact .held _ hp hb
    · exact .emitted hg hb
  | txDone =>
    cases (unlessHalted_next.mp h).2
    exact .txDone
  | halt b =>
    have ⟨_, hn⟩ := unlessHalted_next.mp h
    cases b <;> cases hn <;> constructor
  | pktIn b =>
    rcases (execPktIn_next h).2 with ⟨-, rfl⟩ | ⟨hl, rfl⟩
    · exact .dropped _ _
    · exact .packetAccepted b hl
  | framedEmit ts =>
    obtain ⟨-, hf, hs⟩ := execFramedEmit_next h
    rcases hs with ⟨-, rfl⟩ | ⟨-, hp, hb, rfl⟩ | ⟨hg, hb, rfl⟩
    · exact .dropped _ _
    · exact .held _ hp hb
    · exact .framedEmitted ts hf hg hb
  | framedIn b =>
    obtain ⟨-, hf, hs⟩ := execFramedIn_next h
    rcases hs with ⟨c, -, rfl⟩ | ⟨hb, rfl⟩
    · exact .dropped _ c
    · exact .datagramAccepted b hf hb
  | _ => exact effect_of_keyedFrame rfl h

/-- A step does nothing, or is the effect of one instruction on the state with its word taken off the port. -/
theorem effect_of_step (h : step s = .next t) : t = s ∨ ∃ i rest, Effect (s.withPort rest) i t := by
  rcases step_next h with ⟨-, rfl⟩ | ⟨_, rest, i, -, -, he⟩
  · exact .inl rfl
  · exact .inr ⟨i, rest, effect_of_exec he⟩

/-- No instruction writes a parameter (R47). -/
theorem Effect.cfg_eq (h : Effect s i t) : t.cfg = s.cfg := by cases h <;> rfl

/-- An instruction hands out at most one packet and takes none back (R38). -/
theorem Effect.emitted_eq (h : Effect s i t) : ∃ new, new.length ≤ 1 ∧ t.emitted = s.emitted ++ new := by
  cases h with
  | emitted => exact ⟨_, le_refl 1, rfl⟩
  | framedEmitted => exact ⟨_, le_refl 1, rfl⟩
  | _ => exact ⟨[], Nat.zero_le 1, (List.append_nil _).symm⟩

end Effects

/-! ## The invariant of the machine (R33 to R36, R40 to R42) -/

section TxInvariant
variable {c : Params} {t : Tx}

/-- The reset TX block is coherent. -/
theorem TxCoherent.zero (c : Params) : TxCoherent c Tx.zero :=
  ⟨fun _ => rfl, fun _ => rfl, fun _ => rfl, fun _ => rfl, fun _ => rfl, fun _ => rfl,
    fun _ f _ => Snapshot.get_zero f⟩

/-- HALT touches no register that the invariant names. -/
theorem TxCoherent.halt (h : TxCoherent c t) : TxCoherent c t.halt :=
  ⟨h.gate_busy, h.gate_seq, h.gate_seq8, h.gate_snap, h.no_handshake, h.no_framed, h.basic_only⟩

/-- In BASIC a routine has no write to an extended field (R200). -/
theorem not_mem_routine_of_basic (hv : c.variant = .basic) {f : Field} (hf : f.isBasic = false) (r : PE)
    (d : Payload) (v : ℚ) : Write.val f v ∉ routine c r d := by
  intro hw
  obtain ⟨row, hrow, he⟩ := mem_routine.mp hw
  have hdest : row.dest = some (.val f) := (evalRow_eq_val.mp he).1
  have hbasic : inBasic r row = true := inBasic_of_mem_rowsOf hv (List.mem_filter.mp hrow).1
  simp [inBasic, isBasicRow, hdest, hf] at hbasic

/-- A recognized frame opens the gate, and in BASIC leaves the extended fields at 0 (R32, R33). -/
theorem TxCoherent.recognize (h : TxCoherent c t) (r : PE) (d : Payload) :
    TxCoherent c (t.recognize (t.snap.writeAll (routine c r d))) where
  gate_busy := nofun
  gate_seq := nofun
  gate_seq8 := nofun
  gate_snap := nofun
  no_handshake := h.no_handshake
  no_framed := h.no_framed
  basic_only hv f hf :=
    (writeAll_get_of_not_written (not_mem_routine_of_basic hv hf r d) t.snap).trans (h.basic_only hv f hf)

/-- A handshake bit set behind the gate, or cleared, is coherent (R36). -/
theorem TxCoherent.setBusy (h : TxCoherent c t) {v : Bool} (hv : t.hraf = false → v = false) :
    TxCoherent c (t.setBusy c.txHandshake v) where
  gate_busy hg := by simp [hv hg, h.gate_busy hg]
  gate_seq := h.gate_seq
  gate_seq8 := h.gate_seq8
  gate_snap := h.gate_snap
  no_handshake hp := by simp [hp, h.no_handshake hp]
  no_framed := h.no_framed
  basic_only := h.basic_only

/-- Behind the gate the counter is free (R34). -/
theorem TxCoherent.setSeq (h : TxCoherent c t) (hg : t.hraf = true) (n : Word16) : TxCoherent c (t.setSeq n) :=
  ⟨h.gate_busy, fun hr => absurd (hg.symm.trans hr) nofun, h.gate_seq8, h.gate_snap, h.no_handshake, h.no_framed,
    h.basic_only⟩

/-- Behind the gate and with P_FRAMED the framed counter is free (R35). -/
theorem TxCoherent.setSeq8 (h : TxCoherent c t) (hg : t.hraf = true) (hf : c.framed = true) (n : Byte) :
    TxCoherent c (t.setSeq8 n) :=
  ⟨h.gate_busy, h.gate_seq, fun hr => absurd (hg.symm.trans hr) nofun, h.gate_snap, h.no_handshake,
    fun hn => absurd (hf.symm.trans hn) nofun, h.basic_only⟩

end TxInvariant

section RxInvariant
variable {c : Params} {r : Rx}

/-- The reset RX block is coherent. -/
theorem RxCoherent.zero (c : Params) : RxCoherent c Rx.zero where
  invalid_zero _ := ⟨rfl, rfl⟩
  last_is_seq := nofun
  first_last _ := rfl
  no_gap _ := ⟨rfl, rfl⟩
  gap_valid _ := nofun
  finvalid_zero _ := ⟨rfl, rfl⟩
  flast_is_seq := nofun
  ffirst_last _ := rfl
  fgap_valid _ := nofun
  no_framed _ := rfl

/-- HALT touches no register that the invariant names. -/
theorem RxCoherent.halt (h : RxCoherent c r) : RxCoherent c r.halt :=
  ⟨h.invalid_zero, h.last_is_seq, h.first_last, h.no_gap, h.gap_valid, h.finvalid_zero, h.flast_is_seq,
    h.ffirst_last, h.fgap_valid, h.no_framed⟩

/-- An accepted packet leaves its counter in the snapshot and, with P_RX_GAP, as the last one (R40, R41). -/
theorem RxCoherent.accept (h : RxCoherent c r) {snap : RxSnapshot} {n : Word16} (hn : snap.seq = n) :
    RxCoherent c ((r.accept snap).setLast c.rxGap n) where
  invalid_zero := nofun
  last_is_seq hl := by
    cases hg : c.rxGap
    · simp [hg, (h.no_gap hg).1] at hl
    · exact hn.symm
  first_last hl := by
    cases hg : c.rxGap
    · exact h.first_last (h.no_gap hg).1
    · simp [hg] at hl
  no_gap hg := by simpa [hg] using h.no_gap hg
  gap_valid hg _ := by simp [hg]
  finvalid_zero := h.finvalid_zero
  flast_is_seq := h.flast_is_seq
  ffirst_last := h.ffirst_last
  fgap_valid := h.fgap_valid
  no_framed := h.no_framed

/-- The same for a framed datagram, which only a block with P_FRAMED accepts (R42, R290). -/
theorem RxCoherent.acceptFramed (h : RxCoherent c r) (hf : c.framed = true) {snap : FramedSnapshot} {n : Byte}
    (hn : snap.seq8 = n) : RxCoherent c ((r.acceptFramed snap).setFramedLast c.rxGap n) where
  invalid_zero := h.invalid_zero
  last_is_seq := h.last_is_seq
  first_last := h.first_last
  no_gap hg := by simpa [hg] using h.no_gap hg
  gap_valid := h.gap_valid
  finvalid_zero := nofun
  flast_is_seq hl := by
    cases hg : c.rxGap
    · simp [hg, (h.no_gap hg).2] at hl
    · exact hn.symm
  ffirst_last hl := by
    cases hg : c.rxGap
    · exact h.ffirst_last (h.no_gap hg).2
    · simp [hg] at hl
  fgap_valid hg _ := by simp [hg]
  no_framed hn := absurd (hf.symm.trans hn) nofun

end RxInvariant

/-- EMIT's packet has the shape of R121. -/
theorem packetShape_packetOf (framed : Bool) (n : Word16) (snap : Snapshot) :
    PacketShape framed (packetOf n snap) := .inl (packetOf_length n snap)

/-- FRAMED_EMIT's datagram has the shape of R123. -/
theorem packetShape_datagramOf (n : Byte) (ts : Word32) (snap : Snapshot) :
    PacketShape true (datagramOf n ts snap) := .inr ⟨rfl, datagramOf_length n ts snap, rfl, rfl, rfl⟩

/-- One more packet of the right shape keeps the shape of all. -/
theorem forall_packetShape_append {framed : Bool} {ps : List (List Byte)} {p : List Byte}
    (h : ∀ q ∈ ps, PacketShape framed q) (hp : PacketShape framed p) : ∀ q ∈ ps ++ [p], PacketShape framed q :=
  List.forall_mem_append.mpr ⟨h, List.forall_mem_singleton.mpr hp⟩

/-- Every effect keeps the invariant. -/
theorem Effect.coherent {i : Instr} {s t : State} (h : Effect s i t) (hc : Coherent s) : Coherent t := by
  cases h with
  | dropped | held => exact ⟨hc.tx, hc.rx, hc.packets⟩
  | recognized _ r => exact ⟨hc.tx.recognize r _, hc.rx, hc.packets⟩
  | resetTx => exact ⟨.zero _, hc.rx, hc.packets⟩
  | resetRx => exact ⟨hc.tx, .zero _, hc.packets⟩
  | haltTx => exact ⟨hc.tx.halt, hc.rx, hc.packets⟩
  | haltRx => exact ⟨hc.tx, hc.rx.halt, hc.packets⟩
  | emitted hg =>
    exact ⟨(hc.tx.setSeq hg _).setBusy fun hr => absurd (hg.symm.trans hr) nofun, hc.rx,
      forall_packetShape_append hc.packets (packetShape_packetOf _ _ _)⟩
  | txDone => exact ⟨hc.tx.setBusy fun _ => rfl, hc.rx, hc.packets⟩
  | framedEmitted ts hf hg =>
    have hshape : PacketShape s.cfg.framed (datagramOf (s.tx.seq8 + 1) ts s.tx.snap) :=
      hf.symm ▸ packetShape_datagramOf _ ts _
    exact ⟨(hc.tx.setSeq8 hg hf _).setBusy fun hr => absurd (hg.symm.trans hr) nofun, hc.rx,
      forall_packetShape_append hc.packets hshape⟩
  | packetAccepted => exact ⟨hc.tx, hc.rx.accept rfl, hc.packets⟩
  | datagramAccepted b hf => exact ⟨hc.tx, hc.rx.acceptFramed hf rfl, hc.packets⟩

/-- Settles O6, by the effects of an instruction. -/
theorem stepKeepsTheInvariant : Obligations.StepKeepsTheInvariant := by
  intro s t hc h
  rcases effect_of_step h with rfl | ⟨i, rest, he⟩
  · exact hc
  · exact he.coherent ⟨hc.tx, hc.rx, hc.packets⟩

/-! ## The domains (R31) -/

/-- The pressure conversion keeps the sign (R155). -/
theorem kpa_nonneg {v : ℚ} (h : 0 ≤ v) (flag : Bool) : 0 ≤ kpa v flag := by
  unfold kpa
  split
  · exact h
  · exact mul_nonneg h (by norm_num)

/-- A row that keeps the domains gives a field of domain `Rat, >= 0` no negative value (R31, R150, R155). -/
theorem valueOf_nonneg {row : Descriptor} {f : Field} (hk : keepsNonneg row = true)
    (hd : row.dest = some (.val f)) (hf : f.isNonneg = true) (cal : OilCal) (d : Payload) :
    0 ≤ valueOf cal d row := by
  simp only [keepsNonneg, hd, hf, Bool.not_true, Bool.false_or, Bool.and_eq_true, decide_eq_true_eq] at hk
  obtain ⟨⟨hread, hscale⟩, hconv⟩ := hk
  have hraw : (0 : ℚ) ≤ (rawOf d row.offset row.read : ℚ) := by
    cases hr : row.read <;> simp [hr, rawOf] at hread ⊢
  have hscaled : 0 ≤ (rawOf d row.offset row.read : ℚ) * row.scale := mul_nonneg hraw hscale
  unfold valueOf
  cases hc : row.conv with
  | scaled => exact hscaled
  | kpa flagAt => exact kpa_nonneg hscaled _
  | degc flagAt => simp [hc] at hconv
  | oil => simp [hc] at hconv

/-- A routine of rows that keep the domains keeps a field of domain `Rat, >= 0` so. -/
theorem writeAll_routine_nonneg {c : Params} (hk : keepsDomains c = true) {f : Field} (hf : f.isNonneg = true)
    {snap : Snapshot} (h : 0 ≤ snap.get f) (r : PE) (d : Payload) :
    0 ≤ (snap.writeAll (routine c r d)).get f := by
  rcases writeAll_get_cases (routine c r d) snap f with ⟨v, hv, he⟩ | he
  · obtain ⟨row, hrow, hw⟩ := mem_routine.mp hv
    obtain ⟨hdest, rfl⟩ := evalRow_eq_val.mp hw
    have hr : r ∈ PE.all := by cases r <;> decide
    have hrows : keepsNonneg row = true :=
      List.all_eq_true.mp (List.all_eq_true.mp hk r hr) row (List.mem_filter.mp hrow).1
    rw [he]
    exact valueOf_nonneg hrows hdest hf c.oilCal d
  · rw [he]
    exact h

/-- Every effect keeps the domains: only a recognized frame and RESET write the snapshot. -/
theorem Effect.nonneg {i : Instr} {s t : State} (h : Effect s i t) (hk : keepsDomains s.cfg = true)
    (hn : Nonneg s) : Nonneg t := by
  cases h with
  | recognized _ r => exact fun f hf => writeAll_routine_nonneg hk hf (hn f hf) r _
  | resetTx => exact fun f _ => (Snapshot.get_zero f).ge
  | _ => exact hn

/-- Settles O7, by the effects of an instruction. -/
theorem stepKeepsTheDomains : Obligations.StepKeepsTheDomains := by
  intro s t hk hn h
  rcases effect_of_step h with rfl | ⟨i, rest, he⟩
  · exact ⟨hn, hk⟩
  · exact ⟨he.nonneg hk hn, he.cfg_eq ▸ hk⟩

/-- Settles O5: every register is 0, and every row of the default tables keeps the domains. -/
theorem resetMeetsTheInvariants : Obligations.ResetMeetsTheInvariants :=
  ⟨⟨.zero _, .zero _, nofun⟩, by with_unfolding_all decide, fun f _ => (Snapshot.get_zero f).ge⟩

/-! ## Who writes which register (R30, R33 to R37, R39 to R42) -/

/-- Settles O9: the writers of the TX registers are the effects that replace the TX block. -/
theorem writersOfTheTxRegisters : Obligations.WritersOfTheTxRegisters := by
  intro i s t h hi
  cases effect_of_exec h with
  | recognized _ _ _ _ hf =>
    exact ⟨fun hn => absurd (hf.symm.trans hn) nofun, fun _ => rfl, fun _ => rfl, fun _ => rfl,
      fun _ _ _ => rfl, fun _ => rfl⟩
  | resetTx => exact absurd rfl hi
  | emitted =>
    exact ⟨fun _ => ⟨rfl, rfl⟩, id, fun hn => absurd rfl hn, fun _ => rfl, fun hn => absurd rfl hn, fun _ => rfl⟩
  | framedEmitted ts =>
    exact ⟨fun _ => ⟨rfl, rfl⟩, id, fun _ => rfl, fun hn => absurd rfl (hn ts),
      fun _ _ hn => absurd rfl (hn ts), fun _ => rfl⟩
  | txDone =>
    exact ⟨fun _ => ⟨rfl, rfl⟩, id, fun _ => rfl, fun _ => rfl, fun _ hn => absurd rfl hn, fun _ => rfl⟩
  | haltTx =>
    exact ⟨fun _ => ⟨rfl, rfl⟩, id, fun _ => rfl, fun _ => rfl, fun _ _ _ => rfl, fun hn => absurd rfl hn⟩
  | dropped | held | resetRx | haltRx | packetAccepted | datagramAccepted =>
    exact ⟨fun _ => ⟨rfl, rfl⟩, id, fun _ => rfl, fun _ => rfl, fun _ _ _ => rfl, fun _ => rfl⟩

/-- Settles O10: the writers of the RX registers are the effects that replace the RX block. -/
theorem writersOfTheRxRegisters : Obligations.WritersOfTheRxRegisters := by
  intro i s t h hi
  cases effect_of_exec h with
  | resetRx => exact absurd rfl hi
  | packetAccepted b =>
    exact ⟨fun hn => absurd rfl (hn b), fun _ => rfl, fun _ => ⟨rfl, rfl, rfl, rfl⟩, id, fun _ => rfl⟩
  | datagramAccepted b =>
    exact ⟨fun _ => ⟨rfl, rfl, rfl, rfl⟩, id, fun hn => absurd rfl (hn b), fun _ => rfl, fun _ => rfl⟩
  | haltRx =>
    exact ⟨fun _ => ⟨rfl, rfl, rfl, rfl⟩, id, fun _ => ⟨rfl, rfl, rfl, rfl⟩, id, fun hn => absurd rfl hn⟩
  | dropped | held | recognized | resetTx | haltTx | emitted | txDone | framedEmitted =>
    exact ⟨fun _ => ⟨rfl, rfl, rfl, rfl⟩, id, fun _ => ⟨rfl, rfl, rfl, rfl⟩, id, fun _ => rfl⟩

end Sys2Proof.Machine

/-! ## What a block's instruction depends on (R48) -/

namespace Sys2Proof.Machine

/-- What block `b` sees of a state: the parameters and its own registers. -/
def State.part (s : State) : Block → State
  | .tx => ⟨s.cfg, s.tx, Rx.zero, [], Output.none, []⟩
  | .rx => ⟨s.cfg, Tx.zero, s.rx, [], Output.none, []⟩

/-- The state after block `b` has done in `s` what led its part to `u`. -/
def State.join (s : State) (b : Block) (u : State) : State :=
  match b with
  | .tx => { s with tx := u.tx, out := u.out, emitted := s.emitted ++ u.emitted }
  | .rx => { s with rx := u.rx, out := u.out, emitted := s.emitted ++ u.emitted }

section Join
variable (s u : State) (b : Block)

@[simp] theorem State.part_cfg : (s.part b).cfg = s.cfg := by cases b <;> rfl
@[simp] theorem State.part_emitted : (s.part b).emitted = [] := by cases b <;> rfl
@[simp] theorem State.part_tx : (s.part .tx).tx = s.tx := rfl
@[simp] theorem State.part_rx : (s.part .rx).rx = s.rx := rfl
@[simp] theorem isHalted_part : isHalted (s.part b) b = isHalted s b := by cases b <;> rfl

@[simp] theorem State.join_cfg : (s.join b u).cfg = s.cfg := by cases b <;> rfl
@[simp] theorem State.join_out : (s.join b u).out = u.out := by cases b <;> rfl
@[simp] theorem State.join_emitted : (s.join b u).emitted = s.emitted ++ u.emitted := by cases b <;> rfl
@[simp] theorem State.join_tx_rx : (s.join .tx u).rx = s.rx := rfl
@[simp] theorem State.join_rx_tx : (s.join .rx u).tx = s.tx := rfl

/-- Joining two states with the same parameters to one result gives `b` the same part. -/
theorem State.part_join_congr {s s' : State} (h : s.cfg = s'.cfg) :
    (s.join b u).part b = (s'.join b u).part b := by
  cases b <;> simp [State.part, State.join, h]

/-- Two states with the same part of `b` have `b` halted or not alike. -/
theorem isHalted_congr {s s' : State} {b : Block} (h : s.part b = s'.part b) : isHalted s b = isHalted s' b := by
  rw [← isHalted_part s b, h, isHalted_part]

end Join

@[simp] theorem mapNext_next (f : State → State) (t : State) : mapNext f (.next t) = .next (f t) := rfl

/-- A changed answer has a next state exactly when the answer has one. -/
theorem mapNext_eq_next {f : State → State} {k : Result} {t : State} :
    mapNext f k = .next t ↔ ∃ u, k = .next u ∧ t = f u := by
  cases k <;> simp [mapNext, eq_comm]

theorem mapNext_mapNext (f g : State → State) (k : Result) : mapNext f (mapNext g k) = mapNext (f ∘ g) k := by
  cases k <;> rfl

/-- A meaning that reads and writes the part of block `b` alone: the part fixes the answer, and the rest of the
state stands. -/
def LocalTo (b : Block) (k : State → Result) : Prop := ∀ s, k s = mapNext (s.join b) (k (s.part b))

section Locality
variable {b : Block}

theorem localTo_refused (e : Refusal) : LocalTo b fun _ => .refused e := fun _ => rfl

/-- An update of the state is local when it commutes with taking the part. -/
theorem localTo_next {f : State → State} (h : ∀ s, f s = s.join b (f (s.part b))) : LocalTo b fun s => .next (f s) :=
  fun s => congrArg Host.Outcome.next (h s)

theorem localTo_drop (c : Code) : LocalTo b (drop c) :=
  localTo_next fun s => by cases b <;> simp [State.join, State.ended, State.part]

theorem localTo_held : LocalTo b fun s => .next s.held :=
  localTo_next fun s => by cases b <;> simp [State.join, State.held, State.part]

/-- An update of the TX block from its own registers and the parameters, ended with a code, is local to it. -/
theorem localTo_ended_tx (f : Params → Tx → Tx) (c : Code) :
    LocalTo .tx fun s => .next ((s.withTx (f s.cfg s.tx)).ended c) :=
  localTo_next fun s => by simp [State.join, State.ended, State.withTx, State.part]

/-- An emission from the TX block's registers is local to it. -/
theorem localTo_emits (f : Params → Tx → Tx) (p : Tx → List Byte) :
    LocalTo .tx fun s => .next ((s.withTx (f s.cfg s.tx)).emits (p s.tx)) :=
  localTo_next fun s => by simp [State.join, State.emits, State.withTx, State.part]

/-- An update of the RX block from its own registers and the parameters, with a gap, is local to it. -/
theorem localTo_gap (f : Params → Rx → Rx) (g : Params → Rx → Option Nat) :
    LocalTo .rx fun s => .next ((s.withRx (f s.cfg s.rx)).endedWithGap (g s.cfg s.rx)) :=
  localTo_next fun s => by simp [State.join, State.endedWithGap, State.withRx, State.part]

/-- An update of the RX block from its own registers, ended with a code, is local to it. -/
theorem localTo_ended_rx (f : Rx → Rx) (c : Code) :
    LocalTo .rx fun s => .next ((s.withRx (f s.rx)).ended c) :=
  localTo_next fun s => by simp [State.join, State.ended, State.withRx, State.part]

/-- The halted check reads its own block. -/
theorem localTo_unlessHalted {k : State → Result} (h : LocalTo b k) :
    LocalTo b fun s => unlessHalted b s (k s) := by
  intro s
  dsimp only
  cases hh : isHalted s b
  · rw [unlessHalted_running hh, unlessHalted_running ((isHalted_part s b).trans hh), h s]
  · rw [unlessHalted_halted hh, unlessHalted_halted ((isHalted_part s b).trans hh)]
    rfl

/-- The P_FRAMED guard reads a parameter. -/
theorem localTo_ifFramed {k : State → Result} (h : LocalTo b k) : LocalTo b fun s => ifFramed s (k s) := by
  intro s
  dsimp only
  cases hf : s.cfg.framed
  · rw [ifFramed_absent hf, ifFramed_absent ((congrArg Params.framed (s.part_cfg b)).trans hf)]
    rfl
  · rw [ifFramed_present hf, ifFramed_present ((congrArg Params.framed (s.part_cfg b)).trans hf), h s]

/-- The gate and the hold read the TX block. -/
theorem localTo_gated {k : State → Result} (h : LocalTo .tx k) : LocalTo .tx fun s => gated s (k s) := by
  intro s
  simp only [gated, State.part_cfg, State.part_tx]
  split
  · exact localTo_drop .suppressed s
  · exact localTo_held s
  · exact h s

/-- A routine reads and writes the TX block. -/
theorem localTo_runRoutine (r : PE) (dlc : BitVec 4) (data : Payload) : LocalTo .tx (runRoutine r dlc data) := by
  intro s
  simp only [runRoutine, State.part_cfg]
  split
  · exact localTo_drop .ignShortDlc s
  · exact localTo_ended_tx
      (fun c t => t.recognize (t.snap.writeAll (routine c r (zeroFill (clampDlc dlc) data)))) .ok s

theorem localTo_frame (ext : Bool) (id : CanId) (dlc : BitVec 4) (data : Payload) :
    LocalTo .tx (frame ext id dlc data) := by
  refine localTo_unlessHalted fun s => ?_
  simp only [State.part_cfg]
  split
  · exact localTo_drop .ignStandard s
  · exact localTo_drop .ignUnknownId s
  · exact localTo_runRoutine _ dlc data s

theorem localTo_keyedFrame (r : PE) (dlc : BitVec 4) (data : Payload) : LocalTo .tx (keyedFrame r dlc data) := by
  refine localTo_unlessHalted fun s => ?_
  simp only [State.part_cfg]
  split
  · exact localTo_drop .ignUnknownId s
  · exact localTo_runRoutine r dlc data s

theorem localTo_execPktIn (bytes : List Byte) : LocalTo .rx (execPktIn bytes) := by
  refine localTo_unlessHalted fun s => ?_
  split
  · exact localTo_gap (fun c r => (r.accept (snapshotOfPacket bytes)).setLast c.rxGap (pktWord bytes 0))
      (fun c r => gap16 c.rxGap r.haveLast r.lastSeq (pktWord bytes 0)) s
  · exact localTo_drop .dropLength s

theorem localTo_execFramedIn (bytes : List Byte) : LocalTo .rx (execFramedIn bytes) := by
  refine localTo_unlessHalted (localTo_ifFramed fun s => ?_)
  split
  · exact localTo_drop _ s
  · exact localTo_gap
      (fun c r => (r.acceptFramed (snapshotOfDatagram bytes)).setFramedLast c.rxGap (pktByte bytes 2))
      (fun c r => gap8 c.rxGap r.fhaveLast r.flastSeq8 (pktByte bytes 2)) s

theorem localTo_execReset (b : Block) : LocalTo b (execReset b) := by
  cases b with
  | tx => exact localTo_ended_tx (fun _ _ => Tx.zero) .ok
  | rx => exact localTo_ended_rx (fun _ => Rx.zero) .ok

theorem localTo_execHalt (b : Block) : LocalTo b (execHalt b) := by
  refine localTo_unlessHalted ?_
  cases b with
  | tx => exact localTo_ended_tx (fun _ t => t.halt) .ok
  | rx => exact localTo_ended_rx Rx.halt .ok

/-- R48: every instruction is local to its block. -/
theorem localTo_exec (i : Instr) : LocalTo i.block (exec i) := by
  cases i with
  | reset b => exact localTo_execReset b
  | frameIn ext id dlc data => exact localTo_frame ext id dlc data
  | frameInRegs sidh sidl eid8 eid0 dlcreg d => exact localTo_frame _ _ _ d
  | emit =>
    exact localTo_unlessHalted <| localTo_gated <|
      localTo_emits (fun c t => (t.setSeq (t.seq + 1)).setBusy c.txHandshake true)
        (fun t => packetOf (t.seq + 1) t.snap)
  | txDone => exact localTo_unlessHalted <| localTo_ended_tx (fun c t => t.setBusy c.txHandshake false) .ok
  | halt b => exact localTo_execHalt b
  | pktIn bytes => exact localTo_execPktIn bytes
  | framedEmit ts =>
    exact localTo_unlessHalted <| localTo_ifFramed <| localTo_gated <|
      localTo_emits (fun c t => (t.setSeq8 (t.seq8 + 1)).setBusy c.txHandshake true)
        (fun t => datagramOf (t.seq8 + 1) ts t.snap)
  | framedIn bytes => exact localTo_execFramedIn bytes
  | _ => exact localTo_keyedFrame _ _ _

/-- What an instruction of block `b` leads to is joined to the state from `b`'s part. -/
theorem exec_next_join {i : Instr} {s t : State} (hb : i.block = b) (h : exec i s = .next t) :
    ∃ u, exec i (s.part b) = .next u ∧ t = s.join b u := by
  subst hb
  rw [localTo_exec i s] at h
  exact mapNext_eq_next.mp h

end Locality

/-- Settles O11: the answer comes from the block's own part, which another block's registers do not change. -/
theorem blocksDoNotInterfere : Obligations.BlocksDoNotInterfere := by
  constructor
  · intro i s r hb
    have hlocal : LocalTo .tx (exec i) := hb ▸ localTo_exec i
    constructor
    · rw [hlocal (s.withRx r), hlocal s, mapNext_mapNext]
      rfl
    · intro t h
      obtain ⟨u, -, rfl⟩ := exec_next_join hb h
      rfl
  · intro i s x hb
    have hlocal : LocalTo .rx (exec i) := hb ▸ localTo_exec i
    constructor
    · rw [hlocal (s.withTx x), hlocal s, mapNext_mapNext]
      rfl
    · intro t h
      obtain ⟨u, -, rfl⟩ := exec_next_join hb h
      rfl

end Sys2Proof.Machine

/-! ## Runs of a block (R453, R464) -/

namespace Sys2Proof.Machine

section Port
variable (s : State) (l : List Presented) (b : Block)

@[simp] theorem isHalted_withPort : isHalted (s.withPort l) b = isHalted s b := by cases b <;> rfl

/-- No block sees the port. -/
@[simp] theorem State.part_withPort : (s.withPort l).part b = s.part b := by cases b <;> rfl

end Port

section Faults
variable {b : Block} {s : State} {k : Result} {e : Fault}

/-- A guarded command that would not fault faults only on a halted block (R322). -/
theorem isHalted_of_unlessHalted_fault (hk : ∀ e, k ≠ .fault e) (h : unlessHalted b s k = .fault e) :
    isHalted s b = true := by
  cases hh : isHalted s b
  · rw [unlessHalted_running hh] at h
    exact absurd h (hk e)
  · rfl

theorem next_ne_fault (s : State) (e : Fault) : (.next s : Result) ≠ .fault e := nofun

theorem runRoutine_ne_fault (r : PE) (dlc : BitVec 4) (data : Payload) (s : State) (e : Fault) :
    runRoutine r dlc data s ≠ .fault e := by rw [runRoutine_eq]; nofun

theorem gated_ne_fault (hk : ∀ e, k ≠ .fault e) (e : Fault) : gated s k ≠ .fault e := by
  unfold gated
  split
  · nofun
  · nofun
  · exact hk e

theorem ifFramed_ne_fault (hk : ∀ e, k ≠ .fault e) (e : Fault) : ifFramed s k ≠ .fault e := by
  unfold ifFramed
  split
  · exact hk e
  · nofun

theorem isHalted_of_frame_fault {ext : Bool} {id : CanId} {dlc : BitVec 4} {data : Payload}
    (h : frame ext id dlc data s = .fault e) : isHalted s .tx = true := by
  refine isHalted_of_unlessHalted_fault (fun e => ?_) h
  split
  · nofun
  · nofun
  · exact runRoutine_ne_fault _ dlc data s e

theorem isHalted_of_keyedFrame_fault {r : PE} {dlc : BitVec 4} {data : Payload}
    (h : keyedFrame r dlc data s = .fault e) : isHalted s .tx = true := by
  refine isHalted_of_unlessHalted_fault (fun e => ?_) h
  split
  · nofun
  · exact runRoutine_ne_fault r dlc data s e

/-- An instruction faults only on its halted block (R322, R400). -/
theorem isHalted_of_exec_fault {i : Instr} (h : exec i s = .fault e) : isHalted s i.block = true := by
  cases i with
  | reset b => cases b <;> cases h
  | frameIn ext id dlc data => exact isHalted_of_frame_fault h
  | frameInRegs sidh sidl eid8 eid0 dlcreg d =>
    rw [exec_frameInRegs] at h
    exact isHalted_of_frame_fault h
  | emit => exact isHalted_of_unlessHalted_fault (gated_ne_fault (next_ne_fault _)) h
  | txDone => exact isHalted_of_unlessHalted_fault (next_ne_fault _) h
  | halt b =>
    refine isHalted_of_unlessHalted_fault (fun e => ?_) h
    cases b <;> nofun
  | pktIn bytes =>
    refine isHalted_of_unlessHalted_fault (fun e => ?_) h
    split <;> nofun
  | framedEmit ts => exact isHalted_of_unlessHalted_fault (ifFramed_ne_fault (gated_ne_fault (next_ne_fault _))) h
  | framedIn bytes =>
    refine isHalted_of_unlessHalted_fault (ifFramed_ne_fault fun e => ?_) h
    split <;> nofun
  | _ => exact isHalted_of_keyedFrame_fault h

/-- A record that decodes to nothing faults only on its halted block (R403). -/
theorem isHalted_of_rejected_fault {p : Presented} {r : Reject} (h : rejected p r s = .fault e) :
    isHalted s p.port.block = true :=
  isHalted_of_unlessHalted_fault (fun e => by cases r <;> nofun) h

/-- One word alone on the port faults only on its halted block. -/
theorem isHalted_of_step_fault {p : Presented} (h : step (s.withPort [p]) = .fault e) :
    isHalted s p.port.block = true := by
  cases hd : decode s.cfg p with
  | ok i =>
    rw [step_of_decode (s := s.withPort [p]) rfl hd] at h
    rw [← decode_block hd]
    simpa using isHalted_of_exec_fault h
  | error r =>
    simp only [step, State.withPort_port, State.withPort_cfg, hd] at h
    simpa using isHalted_of_rejected_fault h

end Faults

section Words
variable {b : Block} {before : Nat} {p : Presented} {rest : List Presented} {s t : State}

/-- A run goes on after a word that leaves its block running, unless that word is its last and held: `hl` shuts
out the pending branch. -/
theorem runWords_cons_running (hs : step (s.withPort [p]) = .next t) (hh : isHalted t b = false)
    (hl : rest = [] → t.out.answer ≠ .hold) : runWords b before (p :: rest) s = runWords b before rest t := by
  simp only [runWords, hs, hh]

/-- All that the first of the words of a run can do to it. -/
theorem runWords_cons (b : Block) (before : Nat) (p : Presented) (rest : List Presented) (s : State) :
    (∃ e, step (s.withPort [p]) = .fault e
        ∧ runWords b before (p :: rest) s = .stuck s (s.packetsSince before))
      ∨ (∃ e, step (s.withPort [p]) = .refused e ∧ runWords b before (p :: rest) s = .refused e)
      ∨ (∃ t, step (s.withPort [p]) = .next t ∧ isHalted t b = true
          ∧ runWords b before (p :: rest) s = .stuck t (t.packetsSince before))
      ∨ (∃ t, step (s.withPort [p]) = .next t ∧ isHalted t b = false ∧ rest = [] ∧ t.out.answer = .hold
          ∧ runWords b before (p :: rest) s = .pending t (t.packetsSince before) p)
      ∨ ∃ t, step (s.withPort [p]) = .next t ∧ isHalted t b = false ∧ (rest = [] → t.out.answer ≠ .hold)
          ∧ runWords b before (p :: rest) s = runWords b before rest t := by
  cases hs : step (s.withPort [p]) with
  | fault e => exact .inl ⟨e, rfl, by rw [runWords, hs]⟩
  | refused e => exact .inr (.inl ⟨e, rfl, by rw [runWords, hs]⟩)
  | next t =>
    cases hh : isHalted t b with
    | true => exact .inr (.inr (.inl ⟨t, rfl, hh, by simp only [runWords, hs, hh]⟩))
    | false =>
      by_cases hl : rest = [] ∧ t.out.answer = .hold
      · obtain ⟨rfl, ha⟩ := hl
        exact .inr (.inr (.inr (.inl ⟨t, rfl, hh, rfl, ha, by simp only [runWords, hs, hh, ha]⟩)))
      · have hgo : rest = [] → t.out.answer ≠ .hold := fun hr ha => hl ⟨hr, ha⟩
        exact .inr (.inr (.inr (.inr ⟨t, rfl, hh, hgo, runWords_cons_running hs hh hgo⟩)))

/-- How a run of block `b` stands, as R464 has it: its packets are those since it began, and its state fits the
way it ended. -/
def RunEnd.Fits (b : Block) (before : Nat) (words : List Presented) : RunEnd → Prop
  | .final t packets => packets = t.packetsSince before ∧ isHalted t b = false ∧ t.out.answer ≠ .hold
  | .pending t packets p =>
    packets = t.packetsSince before ∧ isHalted t b = false ∧ t.out.answer = .hold ∧ words.getLast? = some p
  | .stuck t packets => packets = t.packetsSince before ∧ isHalted t b = true
  | .refused _ => True

/-- What ends the later words of a run ends the run. -/
theorem RunEnd.Fits.cons {words : List Presented} {r : RunEnd} (h : r.Fits b before words) (p : Presented) :
    r.Fits b before (p :: words) := by
  cases r with
  | final | stuck | refused => exact h
  | pending t packets q =>
    obtain ⟨hp, hh, ha, hl⟩ := h
    exact ⟨hp, hh, ha, by rw [List.getLast?_cons, hl, Option.getD_some]⟩

/-- A run that begins on a running block whose last command is completed stands as R464 says. -/
theorem runWords_fits {words : List Presented} (hw : wordsOf b words = true) (hh : isHalted s b = false)
    (hl : words = [] → s.out.answer ≠ .hold) : (runWords b before words s).Fits b before words := by
  induction words generalizing s with
  | nil => exact ⟨rfl, hh, hl rfl⟩
  | cons p rest ih =>
    simp only [wordsOf, List.all_cons, Bool.and_eq_true, decide_eq_true_eq] at hw
    obtain ⟨hp, hrest⟩ := hw
    rcases runWords_cons b before p rest s with
      ⟨e, hs, hr⟩ | ⟨e, -, hr⟩ | ⟨t, -, ht, hr⟩ | ⟨t, -, ht, rfl, ha, hr⟩ | ⟨t, -, ht, hgo, hr⟩ <;> rw [hr]
    · exact ⟨rfl, hp ▸ isHalted_of_step_fault hs⟩
    · trivial
    · exact ⟨rfl, ht⟩
    · exact ⟨rfl, ht, ha, rfl⟩
    · exact (ih hrest ht hgo).cons p

/-- What every word of a list keeps, a run of the list keeps; the words' own instructions are at hand. -/
theorem runWords_keeps_of_decoded {Inv : State → Prop} {words : List Presented}
    (keeps : ∀ p ∈ words, ∀ {i : Instr} {s t : State}, decode s.cfg p = .ok i → Inv s →
      exec i (s.withPort []) = .next t → Inv t)
    (hi : Inv s) : ∀ t packets, runWords b before words s = .final t packets → Inv t := by
  induction words generalizing s with
  | nil => intro t packets h; cases h; exact hi
  | cons p rest ih =>
    intro t packets h
    rcases runWords_cons b before p rest s with
      ⟨e, -, hr⟩ | ⟨e, -, hr⟩ | ⟨u, -, -, hr⟩ | ⟨u, -, -, -, -, hr⟩ | ⟨u, hs, -, -, hr⟩ <;> rw [hr] at h
    · cases h
    · cases h
    · cases h
    · cases h
    · obtain ⟨i, hd, -, he⟩ := step_single hs
      exact ih (fun q hq => keeps q (List.mem_cons_of_mem p hq)) (keeps p List.mem_cons_self hd hi he) t packets h

end Words

section AfterReset
variable (s : State) (b : Block)

@[simp] theorem State.afterReset_cfg : (s.afterReset b).cfg = s.cfg := by cases b <;> rfl
@[simp] theorem State.afterReset_emitted : (s.afterReset b).emitted = s.emitted := by cases b <;> rfl
@[simp] theorem State.afterReset_out : (s.afterReset b).out = ⟨.done .ok, none, none⟩ := by cases b <;> rfl
@[simp] theorem isHalted_afterReset : isHalted (s.afterReset b) b = false := by cases b <;> rfl

/-- The registers of `b` after its RESET do not depend on those before (R453). -/
theorem State.part_afterReset_congr {s s' : State} (h : s.cfg = s'.cfg) :
    (s.afterReset b).part b = (s'.afterReset b).part b := by
  cases b <;> simp [State.part, State.afterReset, h]

end AfterReset

/-- The parameters of `s`, and the packets of `s` before any others: what a run from `s` keeps. -/
def Extends (s t : State) : Prop := t.cfg = s.cfg ∧ s.emitted <+: t.emitted

/-- The packets since `s` are those that follow the ones of `s`. -/
theorem Extends.emitted_eq {s t : State} (h : Extends s t) :
    t.emitted = s.emitted ++ t.packetsSince s.emitted.length := (List.prefix_iff_eq_append.mp h.2).symm

/-- An effect on a state that extends `s` gives one that does. -/
theorem Extends.effect {s u t : State} {i : Instr} (h : Extends s u) (he : Effect (u.withPort []) i t) :
    Extends s t := by
  obtain ⟨new, -, hn⟩ := he.emitted_eq
  exact ⟨he.cfg_eq.trans h.1, hn ▸ h.2.trans (List.prefix_append u.emitted new)⟩

/-- Whatever state a run stands in extends the one it began in (R47, R464). -/
theorem run_extends {b : Block} {words : List Presented} (hw : wordsOf b words = true) (s : State) :
    ∀ t ∈ (run b words s).state?, Extends s t := by
  rw [run_eq]
  exact runWords_keeps (fun _ hu he => Extends.effect hu (effect_of_exec he)) hw
    ⟨s.afterReset_cfg b, (s.afterReset_emitted b).symm ▸ List.prefix_rfl⟩

/-- A run stands as R464 says. -/
theorem run_fits {b : Block} {words : List Presented} (hw : wordsOf b words = true) (s : State) :
    (run b words s).Fits b s.emitted.length words := by
  rw [run_eq]
  exact runWords_fits hw (isHalted_afterReset s b) fun _ => by simp

/-! ### What a run does not depend on -/

/-- Two states that block `b` cannot tell apart, within runs that began with the packets `base` and `base'`: the
same part, the same outputs of the last command, the same packets of the run. -/
structure Twin (b : Block) (base base' : List (List Byte)) (s s' : State) : Prop where
  cfg : s.cfg = s'.cfg
  part : s.part b = s'.part b
  out : s.out = s'.out
  packets : ∃ ps, s.emitted = base ++ ps ∧ s'.emitted = base' ++ ps

section Twins
variable {b : Block} {base base' : List (List Byte)} {s s' t : State}

/-- Twins have the same packets since their runs began. -/
theorem Twin.packetsSince (h : Twin b base base' s s') :
    s.packetsSince base.length = s'.packetsSince base'.length := by
  obtain ⟨ps, hs, hs'⟩ := h.packets
  rw [State.packetsSince, State.packetsSince, hs, hs', List.drop_left, List.drop_left]

/-- A word of block `b` leads twins to twins. -/
theorem Twin.step {p : Presented} (h : Twin b base base' s s') (hp : p.port.block = b)
    (hs : step (s.withPort [p]) = .next t) :
    ∃ t', step (s'.withPort [p]) = .next t' ∧ Twin b base base' t t' := by
  obtain ⟨i, hd, hb, he⟩ := step_single hs
  obtain ⟨u, hu, rfl⟩ := exec_next_join (hb.trans hp) he
  have hpart : (s.withPort []).part b = (s'.withPort []).part b := by simpa using h.part
  have hexec : exec i (s'.withPort []) = .next ((s'.withPort []).join b u) := by
    have hlocal : LocalTo b (exec i) := hb.trans hp ▸ localTo_exec i
    rw [hlocal, ← hpart, hu, mapNext_next]
  refine ⟨(s'.withPort []).join b u, ?_, ?_, ?_, ?_, ?_⟩
  · rw [step_of_decode (s := s'.withPort [p]) rfl (h.cfg ▸ hd)]
    exact hexec
  · simp [h.cfg]
  · exact State.part_join_congr u b h.cfg
  · simp
  · obtain ⟨ps, e, e'⟩ := h.packets
    exact ⟨ps ++ u.emitted, by simp [e], by simp [e']⟩

/-- Twins run the same final run. -/
theorem Twin.runWords_final {words : List Presented} {packets : List (List Byte)}
    (h : Twin b base base' s s') (hw : wordsOf b words = true)
    (hr : runWords b base.length words s = .final t packets) :
    ∃ t', runWords b base'.length words s' = .final t' packets ∧ Twin b base base' t t' := by
  induction words generalizing s s' with
  | nil =>
    cases hr
    exact ⟨s', by rw [runWords, h.packetsSince], h⟩
  | cons p rest ih =>
    simp only [wordsOf, List.all_cons, Bool.and_eq_true, decide_eq_true_eq] at hw
    obtain ⟨hp, hrest⟩ := hw
    rcases runWords_cons b base.length p rest s with
      ⟨e, -, hc⟩ | ⟨e, -, hc⟩ | ⟨u, -, -, hc⟩ | ⟨u, -, -, -, -, hc⟩ |
        ⟨u, hs, hh, hgo, hc⟩ <;> rw [hc] at hr
    · cases hr
    · cases hr
    · cases hr
    · cases hr
    · obtain ⟨u', hs', htwin⟩ := h.step hp hs
      rw [runWords_cons_running hs' (isHalted_congr htwin.part ▸ hh) (htwin.out ▸ hgo)]
      exact ih htwin hrest hr

/-- After RESET of block `b`, two states with the same parameters are twins (R453). -/
theorem twin_afterReset (b : Block) (h : s.cfg = s'.cfg) :
    Twin b s.emitted s'.emitted (s.afterReset b) (s'.afterReset b) where
  cfg := by simp [h]
  part := State.part_afterReset_congr b h
  out := by simp
  packets := ⟨[], by simp, by simp⟩

end Twins

/-- The registers of the block other than `b` stand. -/
def SameOther (b : Block) (s t : State) : Prop := (b = .tx → t.rx = s.rx) ∧ (b = .rx → t.tx = s.tx)

/-- RESET of a block leaves the other's registers (R320). -/
theorem sameOther_afterReset (b : Block) (s : State) : SameOther b s (s.afterReset b) := by
  cases b with
  | tx => exact ⟨fun _ => rfl, nofun⟩
  | rx => exact ⟨nofun, fun _ => rfl⟩

/-- A run leaves the other block's registers (R48). -/
theorem run_sameOther {b : Block} {words : List Presented} (hw : wordsOf b words = true) (s : State) :
    ∀ t ∈ (run b words s).state?, SameOther b s t := by
  rw [run_eq]
  refine runWords_keeps (fun hb hi he => ?_) hw (sameOther_afterReset b s)
  obtain ⟨u, -, rfl⟩ := exec_next_join hb he
  constructor
  · rintro rfl
    exact hi.1 rfl
  · rintro rfl
    exact hi.2 rfl

/-- A final run is the same from any state with the same parameters (R453). -/
theorem run_final_congr {b : Block} {s s' t : State} {words : List Presented} {packets : List (List Byte)}
    (hw : wordsOf b words = true) (hc : s.cfg = s'.cfg) (hr : run b words s = .final t packets) :
    ∃ t', run b words s' = .final t' packets ∧ t'.out = t.out
      ∧ (b = .tx → t'.tx = t.tx ∧ t'.rx = s'.rx) ∧ (b = .rx → t'.rx = t.rx ∧ t'.tx = s'.tx) := by
  rw [run_eq] at hr
  obtain ⟨t', hr', htwin⟩ := (twin_afterReset b hc).runWords_final hw hr
  rw [← run_eq] at hr'
  have hother : SameOther b s' t' := run_sameOther hw s' t' (by rw [hr']; rfl)
  refine ⟨t', hr', htwin.out.symm, ?_, ?_⟩
  · rintro rfl
    exact ⟨(congrArg State.tx htwin.part).symm, hother.1 rfl⟩
  · rintro rfl
    exact ⟨(congrArg State.rx htwin.part).symm, hother.2 rfl⟩

/-! ### The counters of a run's packets (R233, R452) -/

/-- `ps` are packets with the counters 1, 2, 3, … of 16 bits, and `n` is the last of them. -/
def Counted (ps : List (List Byte)) (n : Word16) : Prop :=
  n = BitVec.ofNat 16 ps.length ∧ ∀ k p, ps[k]? = some p → pktWord p 0 = BitVec.ofNat 16 (k + 1)

/-- EMIT's packet carries the next counter (R233). -/
theorem Counted.emit {ps : List (List Byte)} {n : Word16} (h : Counted ps n) (snap : Snapshot) :
    Counted (ps ++ [packetOf (n + 1) snap]) (n + 1) := by
  have hnext : n + 1 = BitVec.ofNat 16 (ps.length + 1) := by rw [BitVec.ofNat_add, ← h.1]; rfl
  refine ⟨by rw [hnext, List.length_append, List.length_singleton], fun k p hp => ?_⟩
  rcases Nat.lt_trichotomy k ps.length with hk | rfl | hk
  · exact h.2 k p (List.getElem?_append_left hk ▸ hp)
  · rw [List.getElem?_concat_length, Option.some.injEq] at hp
    rw [← hp, packetOf, pktWord_le16_append, hnext]
  · rw [List.getElem?_eq_none (by simpa using hk)] at hp
    cases hp

/-- What a run of the TX block keeps from RESET on, with P_FRAMED false: its packets are counted, and `seq` is
the last counter. -/
def CountedRun (c : Params) (base : List (List Byte)) (s : State) : Prop :=
  s.cfg = c ∧ ∃ ps, s.emitted = base ++ ps ∧ Counted ps s.tx.seq

/-- Every effect but RESET of the TX block keeps the count. -/
theorem CountedRun.effect {c : Params} {base : List (List Byte)} {s t : State} {i : Instr}
    (h : CountedRun c base s) (hf : c.framed = false) (hi : i ≠ .reset .tx) (he : Effect (s.withPort []) i t) :
    CountedRun c base t := by
  obtain ⟨rfl, ps, hps, hcount⟩ := h
  refine ⟨he.cfg_eq, ?_⟩
  cases he with
  | resetTx => exact absurd rfl hi
  | emitted =>
    exact ⟨ps ++ [packetOf (s.tx.seq + 1) s.tx.snap],
      (congrArg (· ++ [_]) hps).trans (List.append_assoc ..), hcount.emit _⟩
  | framedEmitted ts hframed => exact absurd (hf.symm.trans hframed) nofun
  | _ => exact ⟨ps, hps, hcount⟩

/-- The packets of a final run of the TX block without P_FRAMED and without a second RESET are counted. -/
theorem run_tx_counted {s t : State} {words : List Presented} {packets : List (List Byte)}
    (hreset : ∀ p ∈ words, decode s.cfg p ≠ .ok (.reset .tx)) (hf : s.cfg.framed = false)
    (hr : run .tx words s = .final t packets) (hp : packets = t.packetsSince s.emitted.length) :
    Counted packets t.tx.seq := by
  rw [run_eq] at hr
  have hstart : CountedRun s.cfg s.emitted (s.afterReset .tx) :=
    ⟨rfl, [], (List.append_nil _).symm, rfl, nofun⟩
  obtain ⟨-, ps, hps, hcount⟩ := runWords_keeps_of_decoded (Inv := CountedRun s.cfg s.emitted)
    (fun p hp _ _ _ hd hu he =>
      hu.effect hf (fun e => hreset p hp (hu.1 ▸ e ▸ hd)) (effect_of_exec he)) hstart t packets hr
  rwa [hp, State.packetsSince, hps, List.drop_left]

/-- Settles O8: a step by the effects of an instruction, a run by the induction over its words. -/
theorem parametersAndEmittedPacketsStand : Obligations.ParametersAndEmittedPacketsStand := by
  refine ⟨fun s t h => ?_, fun b s words hw => ⟨fun t packets hr => ?_, fun t packets p hr => ?_,
    fun t packets hr => ?_⟩, fun b s s' t words packets hw hc hr => run_final_congr hw hc hr,
    fun s t words packets hw hreset hf hr => ?_⟩
  · rcases effect_of_step h with rfl | ⟨i, rest, he⟩
    · exact ⟨rfl, [], Nat.zero_le 1, (List.append_nil _).symm⟩
    · exact ⟨he.cfg_eq, he.emitted_eq⟩
  · have hext : Extends s t := run_extends hw s t (by rw [hr]; rfl)
    obtain ⟨rfl, hh, ha⟩ : RunEnd.Fits b _ words (.final t packets) := hr ▸ run_fits hw s
    exact ⟨hext.1, hext.emitted_eq, hh, ha⟩
  · have hext : Extends s t := run_extends hw s t (by rw [hr]; rfl)
    obtain ⟨rfl, hh, ha, hl⟩ : RunEnd.Fits b _ words (.pending t packets p) := hr ▸ run_fits hw s
    exact ⟨hext.1, hext.emitted_eq, hh, ha, hl⟩
  · have hext : Extends s t := run_extends hw s t (by rw [hr]; rfl)
    obtain ⟨rfl, hh⟩ : RunEnd.Fits b _ words (.stuck t packets) := hr ▸ run_fits hw s
    exact ⟨hext.1, hext.emitted_eq, hh⟩
  · obtain ⟨hp, -⟩ : RunEnd.Fits .tx _ words (.final t packets) := hr ▸ run_fits hw s
    obtain ⟨hseq, hcount⟩ := run_tx_counted hreset hf hr hp
    refine ⟨?_, fun k p hk => ?_⟩
    · rw [hseq, BitVec.toNat_ofNat]
    · rw [hcount k p hk, BitVec.toNat_ofNat]

end Sys2Proof.Machine

/-! ## Frames presented twice, and a frame's zero fill (R80, R140, R142) -/

namespace Sys2Proof.Machine

section Frames
variable {ext : Bool} {id : CanId} {dlc : BitVec 4} {data : Payload} {s t : State} {r : PE}

theorem exec_frameIn (ext : Bool) (id : CanId) (dlc : BitVec 4) (data : Payload) (s : State) :
    exec (.frameIn ext id dlc data) s = frame ext id dlc data s := rfl

/-- Check 1: a standard frame is dropped (R140, R143). -/
theorem frame_standard (hh : s.tx.halted = false) : frame false id dlc data s = .next (s.ended .ignStandard) := by
  simp only [frame, unlessHalted_running (b := .tx) hh, drop_next]

/-- Check 2: an ID that is not in the active table is dropped (R140, R143). -/
theorem frame_unknown (hh : s.tx.halted = false) (hl : lookup s.cfg id = none) :
    frame true id dlc data s = .next (s.ended .ignUnknownId) := by
  simp only [frame, unlessHalted_running (b := .tx) hh, hl, drop_next]

/-- Check 3 on a frame too short for its message (R140, R143). -/
theorem frame_short (hh : s.tx.halted = false) (hl : lookup s.cfg id = some r)
    (hm : clampDlc dlc < minDlc s.cfg r) : frame true id dlc data s = .next (s.ended .ignShortDlc) := by
  simp only [frame, unlessHalted_running (b := .tx) hh, hl, runRoutine_eq, if_pos hm]

/-- A frame that passes every check is recognized (R140). -/
theorem frame_recognized (hh : s.tx.halted = false) (hl : lookup s.cfg id = some r)
    (hm : minDlc s.cfg r ≤ clampDlc dlc) : frame true id dlc data s = .next (recognizedState r dlc data s) := by
  simp only [frame, unlessHalted_running (b := .tx) hh, hl, runRoutine_eq, if_neg (not_lt.mpr hm)]

/-- A front end that fills the payload leaves the block nothing to fill (R142, R458). -/
theorem frame_zeroFill (ext : Bool) (id : CanId) (dlc : BitVec 4) (data : Payload) (s : State) :
    frame ext id dlc (zeroFill (clampDlc dlc) data) s = frame ext id dlc data s := by
  simp only [frame, runRoutine_eq, recognizedState, zeroFill_zeroFill]

end Frames

section Writes
variable {ws : List Write}

/-- What a written field holds does not depend on the snapshot before (R145, R161). -/
theorem writeAll_get_of_written {f : Field} (h : ∃ v, Write.val f v ∈ ws) (s t : Snapshot) :
    (s.writeAll ws).get f = (t.writeAll ws).get f := by
  induction ws generalizing s t with
  | nil => simp at h
  | cons w ws ih =>
    rw [writeAll_cons, writeAll_cons]
    by_cases later : ∃ v, Write.val f v ∈ ws
    · exact ih later _ _
    · obtain ⟨v, hv⟩ := h
      have last : ∀ v, Write.val f v ∉ ws := not_exists.mp later
      obtain rfl : w = .val f v := ((List.mem_cons.mp hv).resolve_right (last v)).symm
      simp [writeAll_get_of_not_written last]

/-- What a written `rpm` holds does not depend on the snapshot before (R145, R161). -/
theorem writeAll_rpm_of_written (h : ∃ v, Write.rpm v ∈ ws) (s t : Snapshot) :
    (s.writeAll ws).rpm = (t.writeAll ws).rpm := by
  induction ws generalizing s t with
  | nil => simp at h
  | cons w ws ih =>
    rw [writeAll_cons, writeAll_cons]
    by_cases later : ∃ v, Write.rpm v ∈ ws
    · exact ih later _ _
    · obtain ⟨v, hv⟩ := h
      have last : ∀ v, Write.rpm v ∉ ws := not_exists.mp later
      obtain rfl : w = .rpm v := ((List.mem_cons.mp hv).resolve_right (last v)).symm
      simp [writeAll_rpm_of_not_written last]

/-- The same writes again leave what they left: a field is written, and holds the same value, or it stands. -/
@[simp] theorem writeAll_writeAll (s : Snapshot) (ws : List Write) :
    (s.writeAll ws).writeAll ws = s.writeAll ws := by
  refine Snapshot.ext_get ?_ fun f => ?_
  · by_cases h : ∃ v, Write.rpm v ∈ ws
    · exact writeAll_rpm_of_written h _ _
    · exact writeAll_rpm_of_not_written (not_exists.mp h) _
  · by_cases h : ∃ v, Write.val f v ∈ ws
    · exact writeAll_get_of_written h _ _
    · exact writeAll_get_of_not_written (not_exists.mp h) _

end Writes

/-- Recognizing the same frame again changes nothing (R80). -/
theorem recognizedState_recognizedState (r : PE) (dlc : BitVec 4) (data : Payload) (s : State) :
    recognizedState r dlc data (recognizedState r dlc data s) = recognizedState r dlc data s :=
  congrArg (fun snap => (s.withTx (s.tx.recognize snap)).ended .ok) (writeAll_writeAll s.tx.snap _)

/-- Settles O26: each outcome leaves the parameters and the halted register, so the second frame meets the same
check, and the writes of a recognized one are absorbed. -/
theorem sameFrameTwice : Obligations.SameFrameTwice := by
  intro s t ext id dlc data h
  rw [exec_frameIn] at h ⊢
  obtain ⟨hh, outcome⟩ := frame_next h
  rcases outcome with ⟨rfl, rfl⟩ | ⟨rfl, hl, rfl⟩ | ⟨rfl, r, hl, hm, rfl⟩ | ⟨rfl, r, hl, hm, rfl⟩
  · exact frame_standard hh
  · exact frame_unknown hh hl
  · exact frame_short hh hl hm
  · rw [frame_recognized (s := recognizedState r dlc data s) hh hl hm, recognizedState_recognizedState]

end Sys2Proof.Machine

/-! ## The front end (R82, R409 to R414, R454 to R458) -/

namespace Sys2Proof.Machine

/-- A bit of a register as a remainder. -/
theorem getLsbD_iff_toNat (b : Byte) (i : Nat) : b.getLsbD i = true ↔ b.toNat / 2 ^ i % 2 = 1 := by
  rw [BitVec.getLsbD, Nat.testBit_eq_decide_div_mod_eq, decide_eq_true_eq]

/-- The frames that wait in the controller, in the order a poll reads them (R82). -/
def Controller.waiting (c : Controller) : List RxBuffer := ([BufferNo.rxb0, .rxb1].filter c.isFull).map c.buffer

/-- A poll presents the waiting frames (R82, R410). -/
theorem Controller.decode_poll (p : Params) (k : FrameForm) (c : Controller) :
    (c.poll k).1.map (decode p) = c.waiting.map fun b => .ok (k.instr b) := by
  simp [Controller.poll, pollPresents, Controller.waiting]

/-- RX0IF is bit 0 (R411). -/
theorem Controller.isFull_rxb0 (c : Controller) : c.isFull .rxb0 = true ↔ c.canintf.toNat % 2 = 1 := by
  rw [Controller.isFull, getLsbD_iff_toNat, pow_zero, Nat.div_one]

/-- RX1IF is bit 1 (R411). -/
theorem Controller.isFull_rxb1 (c : Controller) : c.isFull .rxb1 = true ↔ c.canintf.toNat / 2 % 2 = 1 := by
  rw [Controller.isFull, getLsbD_iff_toNat, pow_one]

/-- RX0OVR and RX1OVR are the top two bits (R411). -/
theorem Controller.overflowed_iff (c : Controller) : c.overflowed = true ↔ c.eflg.toNat / 64 ≠ 0 := by
  have := c.eflg.isLt
  rw [Controller.overflowed, Bool.or_eq_true, getLsbD_iff_toNat, getLsbD_iff_toNat]
  omega

/-- A buffer's frame waits exactly when its receive flag is set (R411). -/
theorem Controller.waiting_eq (c : Controller) :
    c.waiting = (if c.canintf.toNat % 2 = 1 then [c.rxb0] else [])
      ++ (if c.canintf.toNat / 2 % 2 = 1 then [c.rxb1] else []) := by
  simp only [← c.isFull_rxb0, ← c.isFull_rxb1]
  cases h0 : c.isFull .rxb0 <;> cases h1 : c.isFull .rxb1 <;>
    simp [Controller.waiting, Controller.buffer, h0, h1]

/-- A poll leaves every register but the two it clears (R456, R457). -/
theorem Controller.read_poll (k : FrameForm) (c : Controller) {r : Reg} (hi : r ≠ .canintf) (he : r ≠ .eflg) :
    (c.poll k).2.read r = c.read r := by
  have writes : (c.poll k).2 = (c.write .canintf (c.canintf &&& 0xFC)).write .eflg (c.eflg &&& 0x3F) :=
    c.poll_controller k
  rw [writes, Controller.read_write, if_neg he.symm, Controller.read_write, if_neg hi.symm]

/-! ### Arriving frames (R409, R410, R414) -/

section Arrivals
variable (c : Controller) (n m : BufferNo) (b : RxBuffer)

@[simp] theorem Controller.fill_overflowed : (c.fill n b).overflowed = c.overflowed := by cases n <;> rfl
@[simp] theorem Controller.fill_canintf : (c.fill n b).canintf = c.canintf ||| n.flagMask := rfl
@[simp] theorem Controller.lose_eflg : (c.lose n).eflg = c.eflg ||| n.overflowMask := rfl
@[simp] theorem Controller.lose_isFull : (c.lose n).isFull m = c.isFull m := by cases m <;> rfl
@[simp] theorem Controller.lose_waiting : (c.lose n).waiting = c.waiting := rfl

/-- A frame sets the flag of its buffer alone (R411). -/
@[simp] theorem Controller.fill_isFull : (c.fill n b).isFull m = (c.isFull m || decide (n = m)) := by
  cases n <;> cases m <;> simp [Controller.isFull, BufferNo.flagMask]

/-- A frame fills its buffer alone (R411). -/
@[simp] theorem Controller.fill_buffer : (c.fill n b).buffer m = if n = m then b else c.buffer m := by
  cases n <;> cases m <;> rfl

/-- A lost frame sets an overflow bit (R409). -/
@[simp] theorem Controller.lose_overflowed : (c.lose n).overflowed = true := by
  cases n <;> simp [Controller.overflowed, BufferNo.overflowMask]

end Arrivals

/-- The controller after frames arrive, oldest first. -/
abbrev Controller.arriveAll (c : Controller) (arrivals : List (BufferNo × RxBuffer)) : Controller :=
  arrivals.foldl (fun x a => x.arrive a.1 a.2) c

section Arrive
variable {c : Controller}

theorem Controller.arrive_empty (ho : c.overflowed = false) (h0 : c.isFull .rxb0 = false) (lost : BufferNo)
    (b : RxBuffer) : c.arrive lost b = c.fill .rxb0 b := by simp [Controller.arrive, ho, h0]

theorem Controller.arrive_second (ho : c.overflowed = false) (h0 : c.isFull .rxb0 = true)
    (h1 : c.isFull .rxb1 = false) (lost : BufferNo) (b : RxBuffer) : c.arrive lost b = c.fill .rxb1 b := by
  simp [Controller.arrive, ho, h0, h1]

theorem Controller.arrive_full (h0 : c.isFull .rxb0 = true) (h1 : c.isFull .rxb1 = true) (lost : BufferNo)
    (b : RxBuffer) : c.arrive lost b = c.lose lost := by simp [Controller.arrive, h0, h1]

/-- Behind two full buffers every frame is lost, and an overflow bit tells it (R409). -/
theorem Controller.arriveAll_full (h0 : c.isFull .rxb0 = true) (h1 : c.isFull .rxb1 = true)
    (arrivals : List (BufferNo × RxBuffer)) :
    (c.arriveAll arrivals).waiting = c.waiting
      ∧ (c.arriveAll arrivals).overflowed = (c.overflowed || decide (arrivals ≠ [])) := by
  induction arrivals generalizing c with
  | nil => simp
  | cons a rest ih =>
    obtain ⟨waiting, overflowed⟩ := ih (c := c.lose a.1) (by simpa using h0) (by simpa using h1)
    rw [Controller.arriveAll, List.foldl_cons, Controller.arrive_full h0 h1]
    exact ⟨by simpa using waiting, by simpa using overflowed⟩

/-- From an empty controller the first two frames wait, in arrival order, and a third overflows (R409, R410). -/
theorem Controller.arriveAll_empty (ho : c.overflowed = false) (h0 : c.isFull .rxb0 = false)
    (h1 : c.isFull .rxb1 = false) (arrivals : List (BufferNo × RxBuffer)) :
    (c.arriveAll arrivals).waiting = (arrivals.take 2).map Prod.snd
      ∧ ((c.arriveAll arrivals).overflowed = true ↔ 2 < arrivals.length) := by
  match arrivals with
  | [] => simp [Controller.waiting, ho, h0, h1]
  | [a] => simp [Controller.arrive_empty ho h0, Controller.waiting, ho, h0, h1]
  | a :: a' :: rest =>
    have two : c.arriveAll (a :: a' :: rest) = ((c.fill .rxb0 a.2).fill .rxb1 a'.2).arriveAll rest := by
      rw [Controller.arriveAll, List.foldl_cons, List.foldl_cons, Controller.arrive_empty ho h0,
        Controller.arrive_second (by simpa using ho) (by simp) (by simpa using h1)]
    obtain ⟨waiting, overflowed⟩ :=
      Controller.arriveAll_full (c := (c.fill .rxb0 a.2).fill .rxb1 a'.2) (by simp) (by simp) rest
    rw [two]
    refine ⟨waiting.trans (by simp [Controller.waiting]), ?_⟩
    simp [overflowed, ho, List.length_pos_iff]

end Arrive

/-- Bits outside a mask do not show through it. -/
theorem or_and_of_disjoint {x m k : Byte} (h : m &&& k = 0) : (x ||| m) &&& k = x &&& k := by
  rw [BitVec.and_comm, BitVec.and_or_distrib_left, BitVec.and_comm k m, h, BitVec.and_comm]
  exact BitVec.or_zero

/-- An arriving frame touches no bit that a poll leaves (R409, R411, R456, R457). -/
theorem Controller.arrive_keeps (c : Controller) (lost : BufferNo) (b : RxBuffer) :
    (c.arrive lost b).canintf &&& 0xFC = c.canintf &&& 0xFC
      ∧ (c.arrive lost b).eflg &&& 0x3F = c.eflg &&& 0x3F := by
  have overflow : lost.overflowMask &&& 0x3F = 0 := by cases lost <;> rfl
  rcases c.arrive_cases lost b with ⟨-, e⟩ | ⟨-, -, e⟩ | ⟨-, -, -, e⟩ <;> rw [e]
  · exact ⟨rfl, or_and_of_disjoint overflow⟩
  · exact ⟨or_and_of_disjoint rfl, rfl⟩
  · exact ⟨or_and_of_disjoint rfl, rfl⟩

/-- Nor do several. -/
theorem Controller.arriveAll_keeps (c : Controller) (arrivals : List (BufferNo × RxBuffer)) :
    (c.arriveAll arrivals).canintf &&& 0xFC = c.canintf &&& 0xFC
      ∧ (c.arriveAll arrivals).eflg &&& 0x3F = c.eflg &&& 0x3F := by
  induction arrivals generalizing c with
  | nil => exact ⟨rfl, rfl⟩
  | cons a rest ih =>
    obtain ⟨flags, overflow⟩ := ih (c.arrive a.1 a.2)
    obtain ⟨flags', overflow'⟩ := c.arrive_keeps a.1 a.2
    exact ⟨flags.trans flags', overflow.trans overflow'⟩

/-! ### Bring-up (R402, R411 to R413, R454, R455) -/

/-- A mode is confirmed when OPMOD reads back its bits (R411, R413). -/
theorem modeConfirmed_iff (m : Mode) (v : Byte) : modeConfirmed m v = true ↔ v.toNat / 32 = m.bits.toNat := by
  have := v.isLt
  rw [modeConfirmed, decide_eq_true_eq, ← BitVec.toNat_inj, BitVec.extractLsb'_toNat, Nat.shiftRight_eq_div_pow]
  omega

/-- A power-on, decoded: RESET, then HALT if a check fails (R410, R454). -/
theorem decode_powerOn (c : Params) (b : Block) (ok : Bool) :
    (powerOn b ok).map (decode c) = .ok (.reset b) :: if ok then [] else [.ok (.halt b)] := by
  cases ok <;> simp [powerOn, decode_encode_command c defaultParams (i := .reset b) rfl,
    decode_encode_command c defaultParams (i := .halt b) rfl]

/-- Every bit of the mask set (R412). -/
theorem masked_mask (old mask : Byte) : masked old mask mask = old ||| mask := by
  ext i hi
  simp only [masked, BitVec.getElem_or, BitVec.getElem_and, BitVec.getElem_not]
  cases old[i] <;> cases mask[i] <;> rfl

/-- The TX node halts exactly when a mode or the radio is not confirmed (R402, R454). -/
theorem decode_bringUp (c : Params) (a b : Byte) (radioOk : Bool) :
    (bringUp a b radioOk).map (decode c)
      = .ok (.reset .tx)
        :: if a.toNat / 32 = 4 ∧ b.toNat / 32 = 0 ∧ radioOk = true then [] else [.ok (.halt .tx)] := by
  rw [bringUp, decode_powerOn]
  simp [modeConfirmed_iff, Mode.bits, and_assoc]

/-- The commands of a bring-up whose configuration mode is confirmed (R454). -/
theorem bringUpTransactions_confirmed {a : Byte} (h : a.toNat / 32 = 4) :
    bringUpTransactions a = .reset :: spiSetMode .configuration
      ++ (configureBitTiming ++ enableReceiveAny ++ spiSetMode .normal) := by
  rw [bringUpTransactions, if_pos ((modeConfirmed_iff .configuration a).mpr h)]

/-- Normal mode is requested last, and REQOP alone is written (R411, R413). -/
theorem canctrl_normal (v : Byte) : (masked (masked v 0xE0 0x80) 0xE0 0).toNat = v.toNat % 32 := by
  revert v
  decide

/-- What a confirmed bring-up leaves of the controller's registers after its reset (R411, R454, R455). -/
theorem run_bringUp {a : Byte} (h : a.toNat / 32 = 4) (fresh ctl : Controller) :
    Controller.run fresh ctl (bringUpTransactions a)
      = { fresh with
          cnf1 := 0x41, cnf2 := 0xF1, cnf3 := 0x85
          canctrl := masked (masked fresh.canctrl 0xE0 0x80) 0xE0 0
          rxb0Ctrl := fresh.rxb0Ctrl ||| 0x60
          rxb1Ctrl := fresh.rxb1Ctrl ||| 0x60 } := by
  rw [bringUpTransactions_confirmed h, ← masked_mask, ← masked_mask]
  rfl

/-- The SPI bytes of a confirmed bring-up (R412, R454, R455). -/
theorem bytes_bringUp {a : Byte} (h : a.toNat / 32 = 4) :
    (bringUpTransactions a).map Spi.bytes
      = [[0xC0], [0x05, 0x0F, 0xE0, 0x80], [0x03, 0x0E], [0x02, 0x2A, 0x41], [0x02, 0x29, 0xF1],
          [0x02, 0x28, 0x85], [0x05, 0x60, 0x60, 0x60], [0x05, 0x70, 0x60, 0x60],
          [0x05, 0x0F, 0xE0, 0x00], [0x03, 0x0E]] := by
  rw [bringUpTransactions_confirmed h]
  rfl

/-! ### The assembled frame (R109, R142, R458) -/

/-- The DLC nibble as a number (R110). -/
theorem regsDlc_eq (v : Byte) : regsDlc v = BitVec.ofNat 4 (v.toNat % 16) := by
  apply BitVec.eq_of_toNat_eq
  simp [regsDlc]

/-- The payload registers of a buffer (R109). -/
def RxBuffer.payload (b : RxBuffer) : Payload := ⟨b[5], b[6], b[7], b[8], b[9], b[10], b[11], b[12]⟩

theorem byteAt_payload (b : RxBuffer) {k : Nat} (hk : k < 8) : byteAt b.payload k = b[k + 5] := by
  interval_cases k <;> rfl

theorem instr_assembled (b : RxBuffer) : FrameForm.assembled.instr b
    = .frameIn (regsExt b[1]) (regsId b[0] b[1] b[2] b[3]) (regsDlc b[4])
        (zeroFill (clampDlc (regsDlc b[4])) b.payload) := rfl

theorem instr_registers (b : RxBuffer) :
    FrameForm.registers.instr b = .frameInRegs b[0] b[1] b[2] b[3] b[4] b.payload := rfl

/-- An assembled payload has the buffer's bytes below the DLC, and 0 from it on (R458). -/
theorem byteAt_assembled (b : RxBuffer) {k : Nat} (hk : k < 8) :
    byteAt (zeroFill (clampDlc (regsDlc b[4])) b.payload) k = if k < b[4].toNat % 16 then b[k + 5] else 0 := by
  have below : k < clampDlc (regsDlc b[4]) ↔ k < b[4].toNat % 16 := by
    rw [clampDlc, regsDlc, BitVec.toNat_setWidth]
    omega
  simp only [byteAt_zeroFill, below, byteAt_payload b hk]

/-- The frame that the front end assembles: its DLC as it stands, its payload filled (R141, R458). -/
theorem assembled_frame (b : RxBuffer) :
    ∃ ext id data, FrameForm.assembled.instr b = .frameIn ext id (BitVec.ofNat 4 (b[4].toNat % 16)) data
      ∧ ∀ (k : Nat) (hk : k < 8), byteAt data k = if k < b[4].toNat % 16 then b[k + 5] else 0 := by
  refine ⟨regsExt b[1], regsId b[0] b[1] b[2] b[3], zeroFill (clampDlc (regsDlc b[4])) b.payload, ?_,
    fun k hk => byteAt_assembled b hk⟩
  rw [← regsDlc_eq, instr_assembled]

/-- The block cannot tell the two forms apart: it fills what the front end did not (R458). -/
theorem exec_assembled_eq_registers (b : RxBuffer) (s : State) :
    exec (FrameForm.assembled.instr b) s = exec (FrameForm.registers.instr b) s := by
  rw [instr_assembled, instr_registers, exec_frameIn, exec_frameInRegs, frame_zeroFill]

/-! ### The statement -/

/-- A poll of any controller (R82, R456, R457). -/
theorem poll_presents_waiting (c : Params) (k : FrameForm) (ctl : Controller) :
    (ctl.poll k).1.map (decode c)
        = ((if ctl.canintf.toNat % 2 = 1 then [ctl.rxb0] else [])
            ++ (if ctl.canintf.toNat / 2 % 2 = 1 then [ctl.rxb1] else [])).map (fun b => .ok (k.instr b))
      ∧ (ctl.poll k).2.canintf = ctl.canintf &&& 0xFC ∧ (ctl.poll k).2.eflg = ctl.eflg &&& 0x3F
      ∧ ∀ r, r ≠ .canintf → r ≠ .eflg → (ctl.poll k).2.read r = ctl.read r := by
  refine ⟨?_, ?_, ?_, fun r hi he => ctl.read_poll k hi he⟩
  · rw [ctl.decode_poll, ctl.waiting_eq]
  · rw [ctl.poll_controller]
  · rw [ctl.poll_controller]

/-- The poll after frames arrived at an empty controller (R82, R409, R410). -/
theorem poll_after_arrivals (c : Params) (k : FrameForm) (ctl : Controller)
    (arrivals : List (BufferNo × RxBuffer)) (hi : ctl.canintf.toNat % 4 = 0) (he : ctl.eflg.toNat / 64 = 0) :
    ((ctl.arriveAll arrivals).poll k).1.map (decode c) = (arrivals.take 2).map (fun a => .ok (k.instr a.2))
      ∧ ((ctl.arriveAll arrivals).overflowed = true ↔ 2 < arrivals.length)
      ∧ ((ctl.arriveAll arrivals).poll k).2.canintf = ctl.canintf
      ∧ ((ctl.arriveAll arrivals).poll k).2.eflg = ctl.eflg := by
  have empty0 : ctl.isFull .rxb0 = false := by
    rw [Bool.eq_false_iff, ne_eq, ctl.isFull_rxb0]
    omega
  have empty1 : ctl.isFull .rxb1 = false := by
    rw [Bool.eq_false_iff, ne_eq, ctl.isFull_rxb1]
    omega
  have clear : ctl.overflowed = false := by
    rw [Bool.eq_false_iff, ne_eq, ctl.overflowed_iff, he]
    simp
  have kept_flags : ∀ v : Byte, v.toNat % 4 = 0 → v &&& 0xFC = v := by decide
  have kept_overflow : ∀ v : Byte, v.toNat / 64 = 0 → v &&& 0x3F = v := by decide
  obtain ⟨waiting, overflowed⟩ := Controller.arriveAll_empty clear empty0 empty1 arrivals
  obtain ⟨flags, overflow⟩ := ctl.arriveAll_keeps arrivals
  refine ⟨?_, overflowed, ?_, ?_⟩
  · rw [Controller.decode_poll, waiting, List.map_map]
    rfl
  · rw [Controller.poll_controller]
    exact flags.trans (kept_flags _ hi)
  · rw [Controller.poll_controller]
    exact overflow.trans (kept_overflow _ he)

/-- Settles O60, from what a poll, arriving frames, a power-on, an assembled frame and the bring-up's commands
do. -/
theorem frontEndPresentsInOrder : Obligations.FrontEndPresentsInOrder := by
  refine ⟨poll_presents_waiting, poll_after_arrivals,
    fun c a b radioOk => ⟨decode_bringUp c a b radioOk, decode_powerOn c .rx radioOk⟩,
    fun b => ⟨assembled_frame b, exec_assembled_eq_registers b⟩, fun fresh ctl a ha => ?_⟩
  have hlt : fresh.canctrl.toNat % 32 < 32 := Nat.mod_lt _ (by decide)
  simp only [run_bringUp ha, canctrl_normal, true_and]
  exact ⟨Nat.div_eq_of_lt hlt, Nat.mod_mod _ _, bytes_bringUp ha⟩

end Sys2Proof.Machine

/-! ## Decoding and the dispatch table (R100 to R107, R180) -/

namespace Sys2Proof.Machine

section Table
variable {c : Params} {r : PE} {id : CanId}

theorem PE.mem_all (r : PE) : r ∈ PE.all := by cases r <;> decide

/-- The message an ID selects is in the active table, and its ID is that one in all 29 bits (R180). -/
theorem active_of_lookup (h : lookup c id = some r) : isActive c r = true ∧ idOf c r = some id := by
  simpa using List.find?_some h

/-- Where the active rows have different IDs, the ID of an active row selects it (R180). -/
theorem lookup_of_active
    (distinct : ∀ r r', isActive c r = true → isActive c r' = true → idOf c r = idOf c r' → r = r')
    (ha : isActive c r = true) (hid : idOf c r = some id) : lookup c id = some r := by
  have found : (lookup c id).isSome := List.find?_isSome.mpr ⟨r, PE.mem_all r, by simp [ha, hid]⟩
  obtain ⟨r', hr'⟩ := Option.isSome_iff_exists.mp found
  obtain ⟨ha', hid'⟩ := active_of_lookup hr'
  rw [hr', distinct r' r ha' ha (hid'.trans hid.symm)]

/-- A message's key selects it when its ID does (R105). -/
theorem selects_iff : selects c r = true ↔ ∃ id, idOf c r = some id ∧ lookup c id = some r := by
  unfold selects
  cases idOf c r <;> simp

/-- Every message is in EXTENDED, and six are in BASIC (R200). -/
theorem inVariant_iff (v : Variant) (r : PE) : inVariant v r = true ↔
    v = .extended ∨ (v = .basic ∧ r ∈ [PE.pe1, .pe2, .pe3, .pe5, .pe6, .pe9]) := by
  cases v <;> cases r <;> decide

/-- Only PE16 may be without an ID (R9, R106). -/
theorem idOf_isSome (c : Params) (r : PE) : (idOf c r).isSome = true ↔ (r = .pe16 → c.pe16Id ≠ none) := by
  cases r <;> simp [idOf, Option.isSome_iff_ne_none]

/-- The rows of the active table (R106, R200). -/
theorem isActive_iff (c : Params) (r : PE) : isActive c r = true ↔
    (c.variant = .extended ∧ (r = .pe16 → c.pe16Id ≠ none))
      ∨ (c.variant = .basic ∧ r ∈ [PE.pe1, .pe2, .pe3, .pe5, .pe6, .pe9]) := by
  rw [isActive, Bool.and_eq_true, inVariant_iff, idOf_isSome]
  have no_pe16 : r ∈ [PE.pe1, .pe2, .pe3, .pe5, .pe6, .pe9] → r ≠ .pe16 := by
    rintro h rfl
    simp at h
  tauto

/-- The fifteen IDs of R106 stand 0x100 apart. -/
theorem idOf_eq (c : Params) (h : r ≠ .pe16) :
    idOf c r = some (BitVec.ofNat 29 (0x0CFFF048 + 0x100 * r.ctorIdx)) := by
  cases r with
  | pe16 => exact absurd rfl h
  | _ => rfl

/-- The key of R105 as a number. -/
theorem dispatchKey_toNat (ext : Bool) (id : CanId) :
    (dispatchKey ext id).toNat = (if ext then 2 ^ 29 else 0) + id.toNat := by
  rw [dispatchKey, BitVec.toNat_append, ← Nat.shiftLeft_add_eq_or_of_lt id.isLt]
  cases ext <;> rfl

end Table

/-- Settles O16, by the table's IDs and rows; that an ID selects one row alone is the hypothesis of
`lookup_of_active`. -/
theorem dispatchTableSelectsByWholeId : Obligations.DispatchTableSelectsByWholeId :=
  ⟨dispatchKey_toNat, fun c _ => idOf_eq c, fun _ => rfl, isActive_iff,
    fun _ distinct _ _ => ⟨active_of_lookup, fun ⟨ha, hid⟩ => lookup_of_active distinct ha hid⟩⟩

/-- Settles O22: an ID selects only messages of the active table, so both forms of the frame run the routine. -/
theorem frameInRunsTheSelectedMessage : Obligations.FrameInRunsTheSelectedMessage := by
  intro s id dlc data r h
  have ha : isActive s.cfg r = true := (active_of_lookup h).1
  simp only [exec_frameIn, exec_ofKey, frame, keyedFrame, h, ha]

/-! ### Records and back (R100, R101, R105) -/

/-- An instruction with a message's key is the message's frame. -/
theorem eq_ofKey_of_key {i : Instr} {r : PE} (h : i.key? = some r) : ∃ dlc data, i = .ofKey r dlc data := by
  cases i <;> cases h <;> exact ⟨_, _, rfl⟩

/-- The record of a message's frame is led by its key (R105). -/
theorem encode_ofKey (c : Params) (r : PE) (dlc : BitVec 4) (data : Payload) :
    encode c (.ofKey r dlc data) = encodeKey c r dlc data := by
  cases r <;> rfl

/-- A key whose ID selects a message stands for the message's frame (R105). -/
theorem ofDispatchKey_of_lookup {c : Params} {id : CanId} {r : PE} (h : lookup c id = some r) (dlc : BitVec 4)
    (data : Payload) : ofDispatchKey c (dispatchKey true id) dlc data = .ofKey r dlc data := by
  simp [ofDispatchKey, h]

/-- The frame of a message that its key selects, encoded and decoded (R105). -/
theorem decode_encode_ofKey {c : Params} {r : PE} (h : selects c r = true) (dlc : BitVec 4) (data : Payload) :
    decode c (encode c (.ofKey r dlc data)) = .ok (.ofKey r dlc data) := by
  obtain ⟨id, hid, hl⟩ := selects_iff.mp h
  rw [encode_ofKey, encodeKey, hid, Option.getD_some]
  exact (decodeFrame_encodeFrame _ _ _ _).trans (congrArg _ (ofDispatchKey_of_lookup hl dlc data))

/-- Settles O14: a command's record does not depend on the parameters, and a message's frame is led by a key
that selects it. -/
theorem decodeOfEncode : Obligations.DecodeOfEncode := by
  intro c i h
  unfold WellFormed at h
  cases hk : i.key? with
  | none => exact decode_encode_command c c hk
  | some r =>
    rw [hk] at h
    obtain ⟨dlc, data, rfl⟩ := eq_ofKey_of_key hk
    exact decode_encode_ofKey h dlc data

/-- Settles O13: the words are the records of their instructions, written out. -/
theorem writtenWordsDecode : Obligations.WrittenWordsDecode :=
  ⟨decodeOfEncode defaultParams .emit rfl, decodeOfEncode defaultParams (.halt .rx) rfl,
    decodeOfEncode defaultParams (.framedEmit 1000) rfl, decodeOfEncode defaultParams (.pktIn [0x01, 0x00]) rfl,
    decodeOfEncode defaultParams (.pe1 8 ⟨0x88, 0x13, 0, 0, 0x16, 0, 0x78, 0⟩) rfl⟩

/-! ### Refused records (R102, R290, R323) -/

section Refused
variable {s : State} {p : Presented} {rest : List Presented} {b : Block} {head : Byte} {tail : List Byte}

/-- A record that decodes to nothing is rejected (R102, R323). -/
theorem step_of_reject {e : Reject} (hp : s.port = p :: rest) (hd : decode s.cfg p = .error e) :
    step s = rejected p e s := by
  simp only [step, hp, hd]

/-- The code of a record is the low nibble of its first byte (assumption 1). -/
theorem code_toNat (head : Byte) : (head.setWidth 4).toNat = head.toNat % 16 := BitVec.toNat_setWidth _ _

/-- A code of 9 to 15 is no command on either port (R102). -/
theorem decodeCommand_reserved (b : Block) (tail : List Byte) (h : 9 ≤ head.toNat % 16) :
    decodeCommand b (head :: tail) = .error (.reservedCode (head.toNat % 16)) := by
  have below : head.toNat % 16 < 16 := Nat.mod_lt _ (by decide)
  simp only [decodeCommand, code_toNat]
  interval_cases head.toNat % 16 <;> rfl

/-- The RX port does not accept the commands of the TX block (R100, R102). -/
theorem decodeCommand_rx_misdirected (tail : List Byte) (h : head.toNat % 16 ∈ [1, 2, 3, 4, 7]) :
    decodeCommand .rx (head :: tail) = .error (.misdirected (head.toNat % 16)) := by
  simp only [List.mem_cons, List.not_mem_nil, or_false] at h
  rcases h with h | h | h | h | h <;> simp only [decodeCommand, code_toNat, h] <;> rfl

/-- The TX port does not accept the commands of the RX block (R100, R102). -/
theorem decodeCommand_tx_misdirected (tail : List Byte) (h : head.toNat % 16 ∈ [6, 8]) :
    decodeCommand .tx (head :: tail) = .error (.misdirected (head.toNat % 16)) := by
  simp only [List.mem_cons, List.not_mem_nil, or_false] at h
  rcases h with h | h <;> simp only [decodeCommand, code_toNat, h] <;> rfl

/-- Code 7 with four operand bytes is FRAMED_EMIT (R100). -/
theorem decodeCommand_framedEmit (h : head.toNat % 16 = 7) (hl : tail.length = 4) :
    ∃ ts, decodeCommand .tx (head :: tail) = .ok (.framedEmit ts) := by
  obtain ⟨x, y, z, w, rfl⟩ := List.length_eq_four.mp hl
  refine ⟨join32 x y z w, ?_⟩
  simp only [decodeCommand, code_toNat, h]
  rfl

/-- Code 8 is FRAMED_IN of the bytes behind it (R100). -/
theorem decodeCommand_framedIn (tail : List Byte) (h : head.toNat % 16 = 8) :
    decodeCommand .rx (head :: tail) = .ok (.framedIn tail) := by
  simp only [decodeCommand, code_toNat, h]
  rfl

end Refused

/-- A port other than the frame input is a block's command port. -/
theorem decode_command_port {p : Port} (h : p ≠ .frame) (c : Params) (bytes : List Byte) :
    decode c ⟨p, bytes⟩ = decodeCommand p.block bytes := by
  cases p with
  | frame => exact absurd rfl h
  | _ => rfl

/-- Settles O15: each record is rejected by the decoder, or is a framed command, which the P_FRAMED guard
refuses. -/
theorem reservedAndMisdirectedAreRefused : Obligations.ReservedAndMisdirectedAreRefused := by
  intro s p head tail rest hport hp hh
  have refused : ∀ {e : Reject}, decodeCommand p.block (head :: tail) = .error e →
      step s = rejected ⟨p, head :: tail⟩ e s :=
    fun he => step_of_reject hport ((decode_command_port hp s.cfg _).trans he)
  have runs : ∀ {i : Instr}, decodeCommand p.block (head :: tail) = .ok i →
      step s = exec i (s.withPort rest) :=
    fun hi => step_of_decode hport ((decode_command_port hp s.cfg _).trans hi)
  refine ⟨fun h => ?_, ?_, ?_, ?_, ?_⟩
  · rw [refused (decodeCommand_reserved _ tail h), rejected, unlessHalted_running hh]
  · rintro rfl h
    rw [refused (decodeCommand_rx_misdirected tail h), rejected, unlessHalted_running hh]
  · rintro rfl h
    rw [refused (decodeCommand_tx_misdirected tail h), rejected, unlessHalted_running hh]
  · rintro hf rfl h hl
    obtain ⟨ts, hd⟩ := decodeCommand_framedEmit h hl
    exact (runs hd).trans ((framedCommandsNeedFramed (s.withPort rest) ts [] hf).1 hh)
  · rintro hf rfl h
    exact (runs (decodeCommand_framedIn tail h)).trans
      ((framedCommandsNeedFramed (s.withPort rest) 0 tail hf).2 hh)

end Sys2Proof.Machine

/-! ## Answers to a conforming host (R102, R322, R400, R401, R410) -/

namespace Sys2Proof.Machine

/-- The command has a next state and ends with an outcome code (R401). -/
def Completes (k : Result) : Prop := ∃ t c, k = .next t ∧ t.out.answer = .done c

section Completed
variable {s : State}

theorem completes_ended (s : State) (c : Code) : Completes (.next (s.ended c)) := ⟨_, c, rfl, rfl⟩

theorem completes_runRoutine (r : PE) (dlc : BitVec 4) (data : Payload) (s : State) :
    Completes (runRoutine r dlc data s) := by
  rw [runRoutine_eq]
  split <;> exact completes_ended _ _

theorem completes_frame (hh : s.tx.halted = false) (ext : Bool) (id : CanId) (dlc : BitVec 4) (data : Payload) :
    Completes (frame ext id dlc data s) := by
  unfold frame
  rw [unlessHalted_running (b := .tx) hh]
  split
  · exact completes_ended s _
  · exact completes_ended s _
  · exact completes_runRoutine _ dlc data s

theorem completes_keyedFrame (hh : s.tx.halted = false) (r : PE) (dlc : BitVec 4) (data : Payload) :
    Completes (keyedFrame r dlc data s) := by
  rw [keyedFrame, unlessHalted_running (b := .tx) hh]
  split
  · exact completes_ended s _
  · exact completes_runRoutine r dlc data s

theorem completes_execPktIn (hh : s.rx.halted = false) (bytes : List Byte) : Completes (execPktIn bytes s) := by
  rw [execPktIn, unlessHalted_running (b := .rx) hh]
  split
  · exact ⟨_, .ok, rfl, rfl⟩
  · exact completes_ended s _

theorem completes_execFramedIn (hh : s.rx.halted = false) (hf : s.cfg.framed = true) (bytes : List Byte) :
    Completes (execFramedIn bytes s) := by
  rw [execFramedIn, unlessHalted_running (b := .rx) hh, ifFramed_present hf]
  split
  · exact completes_ended s _
  · exact ⟨_, .ok, rfl, rfl⟩

theorem completes_execReset (b : Block) (s : State) : Completes (execReset b s) := by
  cases b <;> exact completes_ended _ .ok

theorem completes_execHalt {b : Block} (hh : isHalted s b = false) : Completes (execHalt b s) := by
  unfold execHalt
  rw [unlessHalted_running hh]
  cases b <;> exact completes_ended _ .ok

theorem completes_execTxDone (hh : s.tx.halted = false) : Completes (execTxDone s) := by
  rw [execTxDone, unlessHalted_running (b := .tx) hh]
  exact completes_ended _ .ok

end Completed

/-- The command has a next state, and, as the host keeps the handshake, an outcome code (R401, R410). -/
def Answers (kept : Bool) (k : Result) : Prop :=
  ∃ t, k = .next t ∧ (kept = true → ∃ c, t.out.answer = .done c)

theorem Completes.answers {k : Result} (h : Completes k) (kept : Bool) : Answers kept k := by
  obtain ⟨t, c, hk, ha⟩ := h
  exact ⟨t, hk, fun _ => ⟨c, ha⟩⟩

/-- Behind gate and hold an emission that completes answers, and is held only with a packet outstanding (R234,
R235). -/
theorem answers_gated {s : State} {k : Result} (h : Completes k) :
    Answers (!(s.cfg.txHandshake && s.tx.txBusy)) (gated s k) := by
  unfold gated
  split
  · exact (completes_ended s _).answers _
  next busy => exact ⟨s.held, rfl, by simp [busy]⟩
  · exact h.answers _

/-- Every instruction that a running block has is answered (R322, R400). -/
theorem answers_exec {i : Instr} {s : State} (h : Accepts s i) : Answers (keepsHandshake s i) (exec i s) := by
  obtain ⟨hh, hf⟩ := h
  cases i with
  | reset b => exact (completes_execReset b s).answers _
  | frameIn ext id dlc data => exact (completes_frame hh ext id dlc data).answers _
  | frameInRegs sidh sidl eid8 eid0 dlcreg d =>
    rw [exec_frameInRegs]
    exact (completes_frame hh _ _ _ d).answers _
  | emit =>
    have guards : exec .emit s = gated s (.next (emittedState s)) := unlessHalted_running (b := .tx) hh _
    rw [guards]
    exact answers_gated ⟨_, .ok, rfl, rfl⟩
  | txDone => exact (completes_execTxDone hh).answers _
  | halt b => exact (completes_execHalt hh).answers _
  | pktIn bytes => exact (completes_execPktIn hh bytes).answers _
  | framedEmit ts =>
    rw [exec_framedEmit, execFramedEmit, unlessHalted_running (b := .tx) hh, ifFramed_present (hf rfl)]
    exact answers_gated ⟨_, .ok, rfl, rfl⟩
  | framedIn bytes => exact (completes_execFramedIn hh (hf rfl) bytes).answers _
  | _ => exact (completes_keyedFrame hh _ _ _).answers _

/-- Settles O20: every command answers, and the host's words are the records of its commands, which decode under
any parameters. -/
theorem conformingCommandsAnswer : Obligations.ConformingCommandsAnswer := by
  refine ⟨fun i s h => answers_exec h, fun c k ctl ts b n bytes => ?_⟩
  have record : ∀ {i : Instr}, i.key? = none → [encode defaultParams i].map (decode c) = [.ok i] :=
    fun hi => congrArg (fun x => [x]) (decode_encode_command c defaultParams hi)
  refine ⟨?_, record rfl, record rfl, record rfl, record rfl, ?_, record rfl⟩
  · simp [HostEvent.presents, pollPresents]
  · simp [HostEvent.presents]

end Sys2Proof.Machine

/-! ## Emissions (R120, R123, R124, R230 to R235, R292) -/

namespace Sys2Proof.Machine

section Emission
variable {s : State}

/-- Gate and hold let an emission through when the block may emit (R234, R235). -/
theorem gated_of_mayEmit (h : MayEmit s) (k : Result) : gated s k = k := by
  obtain ⟨-, hraf, free⟩ := h
  have ready : (s.cfg.txHandshake && s.tx.txBusy) = false := by
    cases hp : s.cfg.txHandshake
    · rfl
    · exact free hp
  simp only [gated, hraf, ready]

/-- EMIT emits (R230). -/
theorem exec_emit_of_mayEmit (h : MayEmit s) : exec .emit s = .next (emittedState s) :=
  (unlessHalted_running (b := .tx) h.1 _).trans (gated_of_mayEmit h _)

/-- FRAMED_EMIT emits (R292). -/
theorem exec_framedEmit_of_mayEmit (h : MayEmit s) (hf : s.cfg.framed = true) (ts : Word32) :
    exec (.framedEmit ts) s = .next (framedEmittedState ts s) := by
  rw [exec_framedEmit, execFramedEmit, unlessHalted_running (b := .tx) h.1, ifFramed_present hf,
    gated_of_mayEmit h]

/-- An emission that changes the TX block in its counters and the handshake bit alone (R36, R230, R292). -/
theorem emitted_of_counted {t : Tx} (hsnap : t.snap = s.tx.snap) (hraf : t.hraf = s.tx.hraf)
    (hhalted : t.halted = s.tx.halted) (hbusy : t.txBusy = s.tx.txBusy) (p : List Byte) :
    Emitted p s ((s.withTx (t.setBusy s.cfg.txHandshake true)).emits p) := by
  refine ⟨⟨rfl, rfl, rfl⟩, rfl, rfl, hsnap, hraf, hhalted, fun hp => ?_, fun hp => ?_⟩
  · simp [hp]
  · simp [hp, hbusy]

end Emission

/-! ### Stored fields (R22, R23, R25) -/

section Stored
variable {v s : ℚ}

/-- A u16 field holds its stored integer. -/
theorem toNat_of_stored_u16 {w : Word16} (h : w = BitVec.ofInt 16 (quant v s .u16)) :
    (w.toNat : Int) = quant v s .u16 := by
  obtain ⟨lo, hi⟩ := quant_bounds v s .u16
  rw [h, toNat_ofInt_u16 lo hi]

/-- An i16 field holds its stored integer in two's complement. -/
theorem s16_of_stored_i16 {w : Word16} (h : w = BitVec.ofInt 16 (quant v s .i16)) :
    s16 w = quant v s .i16 := by
  obtain ⟨lo, hi⟩ := quant_bounds v s .i16
  rw [h, s16_ofInt (le_trans (by decide) lo) hi]

/-- A u8 field holds its stored integer. -/
theorem toNat_of_stored_u8 {w : Byte} (h : w = BitVec.ofInt 8 (quant v s .u8)) :
    (w.toNat : Int) = quant v s .u8 := by
  obtain ⟨lo, hi⟩ := quant_bounds v s .u8
  rw [h, toNat_ofInt_u8 lo hi]

/-- A word is its own stored integer at scale 1. -/
theorem quant_word (w : Word16) : quant (w.toNat : ℚ) 1 .u16 = w.toNat := by
  have bound : (w.toNat : Int) ≤ 65535 := by omega
  rw [quant, div_one, ← Int.cast_natCast, rhaz_intCast]
  exact clamp_of_mem (Int.natCast_nonneg _) bound

/-- The stored integer is the rounding of the clamped quotient (R25). -/
theorem quant_eq_rhaz_clamped (v s : ℚ) (t : Store) :
    quant v s t = rhaz (min (t.hi : ℚ) (max (t.lo : ℚ) (v / s))) := (rhaz_clamp t.lo t.hi (v / s)).symm

/-- R239 for one field: inside the bounds the stored integer is the rounded quotient, outside it is the bound. -/
theorem reconstructs_quant (hs : 0 < s) (v : ℚ) (t : Store) : Reconstructs v s t ((quant v s t : ℚ) * s) := by
  have bounds : (t.lo : ℚ) ≤ t.hi := by exact_mod_cast t.lo_le_hi
  rw [quant_eq_rhaz_clamped]
  refine ⟨fun hlo hhi => ?_, fun hlo => ?_, fun hhi => ?_⟩
  · rw [max_eq_right hlo, min_eq_right hhi]
    calc |(rhaz (v / s) : ℚ) * s - v| = |((rhaz (v / s) : ℚ) - v / s) * s| := by
          rw [sub_mul, div_mul_cancel₀ v hs.ne']
      _ = |(rhaz (v / s) : ℚ) - v / s| * s := by rw [abs_mul, abs_of_pos hs]
      _ ≤ 1 / 2 * s := mul_le_mul_of_nonneg_right (abs_rhaz_sub_le _) hs.le
      _ = s / 2 := by ring
  · rw [max_eq_left hlo.le, min_eq_right bounds, rhaz_intCast]
  · rw [max_eq_right (bounds.trans hhi.le), min_eq_left hhi.le, rhaz_intCast]

/-- A u16 field that holds its stored integer reconstructs its value (R239, R262). -/
theorem reconstructs_unpackU {p : List Byte} {k : Nat} (hs : 0 < s)
    (h : ((pktWord p k).toNat : Int) = quant v s .u16) : Reconstructs v s .u16 (unpackU p k s) := by
  have stored : ((pktWord p k).toNat : ℚ) = (quant v s .u16 : ℚ) := by rw [← h, Int.cast_natCast]
  rw [unpackU, stored]
  exact reconstructs_quant hs v .u16

/-- An i16 field that holds its stored integer reconstructs its value (R239, R262). -/
theorem reconstructs_unpackS {p : List Byte} {k : Nat} (hs : 0 < s)
    (h : s16 (pktWord p k) = quant v s .i16) : Reconstructs v s .i16 (unpackS p k s) := by
  rw [unpackS, h]
  exact reconstructs_quant hs v .i16

end Stored

/-- The next value of a 16-bit counter (R233). -/
theorem toNat_succ16 (n : Word16) : (n + 1).toNat = (n.toNat + 1) % 65536 := BitVec.toNat_add n 1

/-- The next value of an 8-bit counter (R292). -/
theorem toNat_succ8 (n : Byte) : (n + 1).toNat = (n.toNat + 1) % 256 := BitVec.toNat_add n 1

/-- A byte appended below a word. -/
theorem toNat_append_byte {n : Nat} (x : BitVec n) (a : Byte) : (x ++ a).toNat = x.toNat * 256 + a.toNat := by
  rw [BitVec.toNat_append, ← Nat.shiftLeft_add_eq_or_of_lt a.isLt, Nat.shiftLeft_eq]

/-- Four joined bytes as a number (R22). -/
theorem join32_toNat (a b c d : Byte) :
    (join32 a b c d).toNat = a.toNat + b.toNat * 2 ^ 8 + c.toNat * 2 ^ 16 + d.toNat * 2 ^ 24 := by
  rw [join32, toNat_append_byte, toNat_append_byte, toNat_append_byte]
  ring

/-- Settles O46: at each offset stand the bytes of its row of the layout. -/
theorem emitPacksTheSnapshot : Obligations.EmitPacksTheSnapshot := by
  intro s h
  exact ⟨emittedState s, packetOf (s.tx.seq + 1) s.tx.snap, exec_emit_of_mayEmit h,
    emitted_of_counted rfl rfl rfl rfl _, rfl, rfl, packetOf_length _ _,
    (congrArg BitVec.toNat (u16_of_le16 (s.tx.seq + 1))).trans (toNat_succ16 _),
    toNat_of_stored_u16 (u16_of_le16 _), toNat_of_stored_u16 (u16_of_le16 _), toNat_of_stored_u16 (u16_of_le16 _),
    s16_of_stored_i16 (u16_of_le16 _), s16_of_stored_i16 (u16_of_le16 _), toNat_of_stored_u8 rfl,
    toNat_of_stored_u8 rfl, toNat_of_stored_u16 (u16_of_le16 _), toNat_of_stored_u16 (u16_of_le16 _),
    toNat_of_stored_u16 (u16_of_le16 _), toNat_of_stored_u16 (u16_of_le16 _)⟩

/-- Settles O56: at each offset stand the header's bytes, the timestamp's, or those of a row of the layout. -/
theorem framedEmitPacksTheSnapshot : Obligations.FramedEmitPacksTheSnapshot := by
  intro s ts h hf
  exact ⟨framedEmittedState ts s, datagramOf (s.tx.seq8 + 1) ts s.tx.snap, exec_framedEmit_of_mayEmit h hf ts,
    emitted_of_counted rfl rfl rfl rfl _, rfl, rfl, datagramOf_length _ _ _, rfl, rfl, toNat_succ8 _, rfl,
    (join32_toNat ..).symm.trans (congrArg BitVec.toNat (join32_split32 ts)),
    toNat_of_stored_u16 (u16_of_le16 _), s16_of_stored_i16 (u16_of_le16 _), s16_of_stored_i16 (u16_of_le16 _),
    s16_of_stored_i16 (u16_of_le16 _), toNat_of_stored_u16 (u16_of_le16 _), toNat_of_stored_u16 (u16_of_le16 _),
    toNat_of_stored_u16 (u16_of_le16 _), s16_of_stored_i16 (u16_of_le16 _), s16_of_stored_i16 (u16_of_le16 _),
    s16_of_stored_i16 (u16_of_le16 _), s16_of_stored_i16 (u16_of_le16 _), toNat_of_stored_u16 (u16_of_le16 _),
    toNat_of_stored_u16 (u16_of_le16 _), toNat_of_stored_u16 (u16_of_le16 _), toNat_of_stored_u16 (u16_of_le16 _)⟩

/-- Settles O59: what FRAMED_EMIT packs passes FRAMED_IN's checks, and each field reads back its stored integer. -/
theorem framedRoundTrip : Obligations.FramedRoundTrip := by
  intro s r ts h hf hh hrf
  obtain ⟨t, p, hexec, emitted, hseq8, -, hlen, h0, h1, h2, h3, hts, hrpm, htps, hfot, hign, hmap, hbaro,
    hlambda, hoil, hbatt, hcoolant, hair, hfl, hfr, hbl, hbr⟩ := framedEmitPacksTheSnapshot s ts h hf
  obtain ⟨-, hout, -⟩ := emitted
  have counter : pktByte p 2 = t.tx.seq8 := by
    apply BitVec.eq_of_toNat_eq
    rw [h2, hseq8, toNat_succ8]
  have stamp : join32 (pktByte p 4) (pktByte p 5) (pktByte p 6) (pktByte p 7) = ts := by
    apply BitVec.eq_of_toNat_eq
    rw [join32_toNat, hts]
  have speed : pktWord p 8 = s.tx.snap.rpm := by
    apply BitVec.eq_of_toNat_eq
    exact_mod_cast hrpm.trans (quant_word s.tx.snap.rpm)
  have tenth : (0 : ℚ) < 1 / 10 := by norm_num
  have hundredth : (0 : ℚ) < 1 / 100 := by norm_num
  have thousandth : (0 : ℚ) < 1 / 1000 := by norm_num
  exact ⟨t, p, datagramAcceptedState p r, hexec, congrArg Output.packet hout,
    exec_framedIn_of_passes hh hrf (datagramFault_eq_none.mpr ⟨hlen, h0, h1, h3⟩), rfl, counter, stamp, speed,
    reconstructs_unpackS tenth htps, reconstructs_unpackS tenth hfot, reconstructs_unpackS tenth hign,
    reconstructs_unpackU hundredth hmap, reconstructs_unpackU hundredth hbaro,
    reconstructs_unpackU thousandth hlambda, reconstructs_unpackS tenth hoil,
    reconstructs_unpackS hundredth hbatt, reconstructs_unpackS tenth hcoolant, reconstructs_unpackS tenth hair,
    reconstructs_unpackU tenth hfl, reconstructs_unpackU tenth hfr, reconstructs_unpackU tenth hbl,
    reconstructs_unpackU tenth hbr⟩

end Sys2Proof.Machine

/-! ## Rounding ties that frames reach (R240) -/

namespace Sys2Proof.Machine

/-- The rows of the default table that write a field, of whatever message (R182 to R197). -/
def defaultWriters (f : Field) : List Descriptor :=
  (PE.all.flatMap (tableOf defaultFieldTable)).filter fun d => d.dest = some (.val f)

section Writers
variable {c : Params} {r : PE} {d : Payload}

/-- Under the default table and oil source a routine's rows are the table's (R199, R200). -/
theorem mem_default_of_mem_writingRowsOf (ht : c.fieldTable = defaultFieldTable)
    (ho : c.oilSource = defaultOilSource) {row : Descriptor} (h : row ∈ writingRowsOf c r) :
    row ∈ tableOf defaultFieldTable r := by
  have hrow : row ∈ rowsOf c r := (List.mem_filter.mp h).1
  rw [rowsOf, withOilRow, if_pos ho, ht] at hrow
  cases hv : c.variant <;> simp only [hv] at hrow
  · exact hrow
  · exact (List.mem_filter.mp hrow).1

/-- What a routine writes to a field is the value of a default row that names the field (R111, R145). -/
theorem exists_defaultWriter (ht : c.fieldTable = defaultFieldTable) (ho : c.oilSource = defaultOilSource)
    {f : Field} {v : ℚ} (h : Write.val f v ∈ routine c r d) :
    ∃ row ∈ defaultWriters f, valueOf c.oilCal d row = v := by
  obtain ⟨row, hrow, he⟩ := mem_routine.mp h
  obtain ⟨hdest, hv⟩ := evalRow_eq_val.mp he
  refine ⟨row, List.mem_filter.mpr ⟨?_, by simpa using hdest⟩, hv⟩
  exact List.mem_flatMap.mpr ⟨r, PE.mem_all r, mem_default_of_mem_writingRowsOf ht ho hrow⟩

end Writers

/-! ### When a quotient is a tie -/

/-- A fraction is a tie when twice its remainder is the divisor (R240). -/
theorem isTie_div_iff (a : ℤ) {n : ℕ} (hn : 0 < n) : IsTie ((a : ℚ) / n) ↔ 2 * (a % n) = n := by
  have hpos : (n : ℚ) ≠ 0 := by exact_mod_cast hn.ne'
  rw [IsTie, Int.fract_div_intCast_eq_div_intCast_mod, div_eq_div_iff hpos two_ne_zero, one_mul, mul_comm]
  exact_mod_cast Iff.rfl

/-- No integer is a tie. -/
theorem not_isTie_intCast (a : ℤ) : ¬ IsTie (a : ℚ) := by
  rw [IsTie, Int.fract_intCast]
  norm_num

/-- R240, battery voltage: hundredths in steps of a tenth. -/
theorem isTie_hundredths (a : ℤ) : IsTie ((a : ℚ) * (1 / 100) / (1 / 10)) ↔ a % 10 = 5 := by
  have quotient : (a : ℚ) * (1 / 100) / (1 / 10) = (a : ℚ) / (10 : ℕ) := by push_cast; ring
  rw [quotient, isTie_div_iff a (by decide)]
  omega

/-- R240, oil pressure: the transform of R157 makes quarters of a step. -/
theorem isTie_oil (a : ℤ) : IsTie (oil defaultOilCal a / (1 / 10)) ↔ a % 4 = 2 := by
  have quotient : oil defaultOilCal a / (1 / 10) = ((a - 500 : ℤ) : ℚ) / (4 : ℕ) := by
    rw [oil, if_neg (by simp [defaultOilCal])]
    simp only [defaultOilCal]
    push_cast
    ring
  rw [quotient, isTie_div_iff _ (by decide)]
  omega

/-- R240, manifold pressure: hundredths of kPa tie like battery voltage, while psi in kPa never do, as 172369 is
odd and no raw word reaches 125000. -/
theorem isTie_kpa {a : ℤ} (h₀ : 0 ≤ a) (h₁ : a ≤ 65535) (flag : Bool) :
    IsTie (kpa ((a : ℚ) * (1 / 100)) flag / (1 / 10)) ↔ flag = true ∧ a % 10 = 5 := by
  cases flag with
  | true => simpa [kpa] using isTie_hundredths a
  | false =>
    have quotient : kpa ((a : ℚ) * (1 / 100)) false / (1 / 10) = ((a * 172369 : ℤ) : ℚ) / (250000 : ℕ) := by
      simp only [kpa, Bool.false_eq_true, if_false]
      push_cast
      ring
    rw [quotient, isTie_div_iff _ (by decide)]
    have odd : 2 * (a * 172369 % 250000) ≠ 250000 := by omega
    simpa using odd

/-- R240, coolant temperature: tenths of °C are whole steps, and a tenth of °F is 5/9 of one. -/
theorem not_isTie_degc (a : ℤ) (flag : Bool) : ¬ IsTie (degc ((a : ℚ) * (1 / 10)) flag / (1 / 10)) := by
  cases flag with
  | true =>
    have quotient : degc ((a : ℚ) * (1 / 10)) true / (1 / 10) = a := by
      simp only [degc, if_true]
      ring
    rw [quotient]
    exact not_isTie_intCast a
  | false =>
    have quotient : degc ((a : ℚ) * (1 / 10)) false / (1 / 10) = (((a - 320) * 5 : ℤ) : ℚ) / (9 : ℕ) := by
      simp only [degc, Bool.false_eq_true, if_false]
      push_cast
      ring
    rw [quotient, isTie_div_iff _ (by decide)]
    omega

/-- R240, wheel speeds: fifths of a hertz in steps of a half. -/
theorem not_isTie_fifths (a : ℤ) : ¬ IsTie ((a : ℚ) * (1 / 5) / (1 / 2)) := by
  have quotient : (a : ℚ) * (1 / 5) / (1 / 2) = ((a * 2 : ℤ) : ℚ) / (5 : ℕ) := by push_cast; ring
  rw [quotient, isTie_div_iff _ (by decide)]
  omega

/-- A field whose row has the packet's own scale is a whole number of steps. -/
theorem not_isTie_same_scale (a : ℤ) {s : ℚ} (hs : s ≠ 0) : ¬ IsTie ((a : ℚ) * s / s) := by
  rw [mul_div_cancel_right₀ _ hs]
  exact not_isTie_intCast a

/-- The rows of the packet, each with the default rows that write its field. -/
def packetWriters : List (PackRow × Descriptor) :=
  packetLayout.flatMap fun row =>
    match row.source with
    | .rpm => []
    | .val f => (defaultWriters f).map fun writer => (row, writer)

theorem mem_packetWriters {row : PackRow} (hrow : row ∈ packetLayout) {f : Field} (hf : row.source = .val f)
    {writer : Descriptor} (hw : writer ∈ defaultWriters f) : (row, writer) ∈ packetWriters := by
  refine List.mem_flatMap.mpr ⟨row, hrow, ?_⟩
  simpa only [hf] using List.mem_map_of_mem (f := fun writer => (row, writer)) hw

/-- Written out: PE1, PE2, PE3, PE5, PE6 and PE9 write what the packet carries, `lambda` twice. -/
theorem packetWriters_eq : packetWriters =
    [(⟨.val .mapKpa, 1 / 10, .u16⟩, rowKpa 2 (1 / 100) 6 .mapKpa),
     (⟨.val .tpsPct, 1 / 10, .u16⟩, rowS 2 (1 / 10) .tpsPct),
     (⟨.val .oilPsi, 1 / 10, .i16⟩, rowOil 0),
     (⟨.val .coolantC, 1 / 10, .i16⟩, rowDegc 4 (1 / 10) 6 .coolantC),
     (⟨.val .lambda, 1 / 100, .u8⟩, rowU 4 (1 / 100) .lambda),
     (⟨.val .lambda, 1 / 100, .u8⟩, rowU 0 (1 / 100) .lambda),
     (⟨.val .battV, 1 / 10, .u8⟩, rowS 0 (1 / 100) .battV),
     (⟨.val .wsFlHz, 1 / 2, .u16⟩, rowU 0 (1 / 5) .wsFlHz),
     (⟨.val .wsFrHz, 1 / 2, .u16⟩, rowU 2 (1 / 5) .wsFrHz),
     (⟨.val .wsBlHz, 1 / 2, .u16⟩, rowU 4 (1 / 5) .wsBlHz),
     (⟨.val .wsBrHz, 1 / 2, .u16⟩, rowU 6 (1 / 5) .wsBrHz)] := rfl

/-- The flag of a payload byte is odd or even (R154). -/
theorem flagBit_iff (d : Payload) (k : Nat) : flagBit d k = true ↔ (byteAt d k).toNat % 2 = 1 := by
  rw [flagBit, getLsbD_iff_toNat, pow_zero, Nat.div_one]

/-- R240 for the value of a frame's row and the packet row that packs its field. -/
theorem isTie_of_packetWriter (d : Payload) {row : PackRow} {writer : Descriptor}
    (h : (row, writer) ∈ packetWriters) {f : Field} (hf : row.source = .val f) :
    IsTie (valueOf defaultOilCal d writer / row.scale) ↔
      (f = .battV ∧ s16 (u16 d.d0 d.d1) % 10 = 5)
        ∨ (f = .mapKpa ∧ d.d6.toNat % 2 = 1 ∧ (u16 d.d2 d.d3).toNat % 10 = 5)
        ∨ (f = .oilPsi ∧ s16 (u16 d.d0 d.d1) % 4 = 2) := by
  simp only [packetWriters_eq, List.mem_cons, List.not_mem_nil, or_false, Prod.mk.injEq] at h
  rcases h with ⟨rfl, rfl⟩ | ⟨rfl, rfl⟩ | ⟨rfl, rfl⟩ | ⟨rfl, rfl⟩ | ⟨rfl, rfl⟩ | ⟨rfl, rfl⟩ | ⟨rfl, rfl⟩ |
    ⟨rfl, rfl⟩ | ⟨rfl, rfl⟩ | ⟨rfl, rfl⟩ | ⟨rfl, rfl⟩ <;> cases hf
  · have word : ((fieldU d 2).toNat : ℤ) ≤ 65535 := by omega
    refine (isTie_kpa (Int.natCast_nonneg _) word (flagBit d 6)).trans ?_
    have digit : ((fieldU d 2).toNat : ℤ) % 10 = 5 ↔ (fieldU d 2).toNat % 10 = 5 := by omega
    rw [flagBit_iff, digit]
    simp [fieldU, byteAt]
  · exact iff_of_false (not_isTie_same_scale (fieldS d 2) (s := 1 / 10) (by norm_num)) (by simp)
  · exact (isTie_oil (fieldS d 0)).trans (by simp [fieldS, fieldU, byteAt])
  · exact iff_of_false (not_isTie_degc (fieldS d 4) _) (by simp)
  · exact iff_of_false (not_isTie_same_scale (fieldU d 4).toNat (s := 1 / 100) (by norm_num)) (by simp)
  · exact iff_of_false (not_isTie_same_scale (fieldU d 0).toNat (s := 1 / 100) (by norm_num)) (by simp)
  · exact (isTie_hundredths (fieldS d 0)).trans (by simp [fieldS, fieldU, byteAt])
  · exact iff_of_false (not_isTie_fifths (fieldU d 0).toNat) (by simp)
  · exact iff_of_false (not_isTie_fifths (fieldU d 2).toNat) (by simp)
  · exact iff_of_false (not_isTie_fifths (fieldU d 4).toNat) (by simp)
  · exact iff_of_false (not_isTie_fifths (fieldU d 6).toNat) (by simp)

/-- The packet's `rpm` row has scale 1 (R120). -/
theorem scale_of_rpm {row : PackRow} (hrow : row ∈ packetLayout) (hs : row.source = .rpm) : row.scale = 1 := by
  have others : ∀ row ∈ packetLayout.tail, row.source ≠ .rpm := by simp [packetLayout]
  rcases List.mem_cons.mp hrow with rfl | hrow
  · rfl
  · exact absurd hs (others row hrow)

/-- Settles O49: what a frame writes to a packet field is the value of one of the field's default rows. -/
theorem tiesReachableFromFrames : Obligations.TiesReachableFromFrames := by
  intro c r d ht ho hc row hrow
  refine ⟨fun v _ hs => ?_, fun f v hv hf => ?_⟩
  · rw [scale_of_rpm hrow hs, div_one, ← Int.cast_natCast]
    exact not_isTie_intCast _
  · obtain ⟨writer, hw, rfl⟩ := exists_defaultWriter ht ho hv
    rw [hc]
    exact isTie_of_packetWriter d (mem_packetWriters hrow hf hw) hf

end Sys2Proof.Machine

/-! ## The outcomes of a frame (R140 to R149, R161) -/

namespace Sys2Proof.Machine

/-- A dropped command leaves its code and nothing else (R26, R146). -/
theorem onlyAnswers_ended (s : State) (c : Code) : OnlyAnswers (.done c) s (s.ended c) :=
  ⟨⟨rfl, rfl, rfl⟩, ⟨rfl, rfl, rfl⟩, rfl, rfl⟩

/-- A field is one that a routine writes exactly when the routine's writes name it, whatever the payload (R145). -/
theorem mem_writtenFields (c : Params) (r : PE) (d : Payload) {f : Field} :
    f ∈ writtenFields c r ↔ ∃ v, Write.val f v ∈ routine c r d := by
  have byRow : (∃ v, Write.val f v ∈ routine c r d) ↔ ∃ row ∈ writingRowsOf c r, row.dest = some (.val f) := by
    simp only [mem_routine, evalRow_eq_val]
    exact ⟨fun ⟨_, row, hrow, hd, _⟩ => ⟨row, hrow, hd⟩, fun ⟨row, hrow, hd⟩ => ⟨_, row, hrow, hd, rfl⟩⟩
  rw [byRow, writtenFields, List.mem_filterMap]
  refine exists_congr fun row => and_congr_right fun _ => ?_
  rcases row.dest with _ | _ | g <;> simp

/-- A recognized frame changes the fields its routine names, `rpm` and `hraf`, and no other register
(R144, R145, R181). -/
theorem recognized_recognizedState (r : PE) (dlc : BitVec 4) (data : Payload) (s : State) :
    Recognized (writtenFields s.cfg r) s (recognizedState r dlc data s) := by
  have kept : OnlyFields (writtenFields s.cfg r) s.tx.snap (recognizedState r dlc data s).tx.snap := by
    intro f hf
    rw [mem_writtenFields s.cfg r (zeroFill (clampDlc dlc) data), not_exists] at hf
    exact writeAll_get_of_not_written hf s.tx.snap
  exact ⟨⟨rfl, rfl, rfl⟩, ⟨rfl, rfl, rfl⟩, rfl, rfl, kept, rfl, rfl, rfl, rfl⟩

/-- What becomes of a frame is fixed by its operands and the parameters: one code drops it in every state that
has these parameters and runs, or one message recognizes it there (R161). -/
theorem frame_outcome (c : Params) (ext : Bool) (id : CanId) (dlc : BitVec 4) (data : Payload) :
    (∃ code, ∀ s : State, s.cfg = c → s.tx.halted = false → frame ext id dlc data s = .next (s.ended code))
      ∨ ∃ r, ∀ s : State, s.cfg = c → s.tx.halted = false →
        frame ext id dlc data s = .next (recognizedState r dlc data s) := by
  cases ext with
  | false => exact .inl ⟨.ignStandard, fun _ _ hh => frame_standard hh⟩
  | true =>
    cases hl : lookup c id with
    | none => exact .inl ⟨.ignUnknownId, fun s hc hh => frame_unknown hh (hc ▸ hl)⟩
    | some r =>
      rcases lt_or_ge (clampDlc dlc) (minDlc c r) with hm | hm
      · exact .inl ⟨.ignShortDlc, fun s hc hh => frame_short hh (hc ▸ hl) (hc ▸ hm)⟩
      · exact .inr ⟨r, fun s hc hh => frame_recognized hh (hc ▸ hl) (hc ▸ hm)⟩

section Writes
variable (ws : List Write) (s t : Snapshot)

/-- The same writes give a field one value in every snapshot, or keep it in every one (R161). -/
theorem writeAll_get_eq_or_kept (f : Field) : (s.writeAll ws).get f = (t.writeAll ws).get f
    ∨ ((s.writeAll ws).get f = s.get f ∧ (t.writeAll ws).get f = t.get f) := by
  by_cases h : ∃ v, Write.val f v ∈ ws
  · exact .inl (writeAll_get_of_written h s t)
  · have unnamed := not_exists.mp h
    exact .inr ⟨writeAll_get_of_not_written unnamed s, writeAll_get_of_not_written unnamed t⟩

/-- The same writes give `rpm` one value in every snapshot, or keep it in every one (R161). -/
theorem writeAll_rpm_eq_or_kept : (s.writeAll ws).rpm = (t.writeAll ws).rpm
    ∨ ((s.writeAll ws).rpm = s.rpm ∧ (t.writeAll ws).rpm = t.rpm) := by
  by_cases h : ∃ v, Write.rpm v ∈ ws
  · exact .inl (writeAll_rpm_of_written h s t)
  · have unnamed := not_exists.mp h
    exact .inr ⟨writeAll_rpm_of_not_written unnamed s, writeAll_rpm_of_not_written unnamed t⟩

end Writes

/-- Settles O21: each failing check answers its code alone. -/
theorem frameChecksInOrder : Obligations.FrameChecksInOrder := by
  intro s ext id dlc data hh
  rw [exec_frameIn]
  refine ⟨?_, ?_, ?_⟩
  · rintro rfl
    exact ⟨_, frame_standard hh, onlyAnswers_ended s _⟩
  · rintro rfl hl
    exact ⟨_, frame_unknown hh hl, onlyAnswers_ended s _⟩
  · rintro r rfl hl hm
    exact ⟨_, frame_short hh hl hm, onlyAnswers_ended s _⟩

/-- The DLC nibble of the DLC register, clamped (R141, R147). -/
theorem clampDlc_regsDlc (v : Byte) : clampDlc (regsDlc v) = min (v.toNat % 16) 8 := by
  rw [clampDlc, regsDlc, BitVec.toNat_setWidth]

/-- Settles O23: a frame that passes every check is recognized, and FRAME_IN_REGS is a frame with SIDL's flag. -/
theorem recognizedFramesComplete : Obligations.RecognizedFramesComplete := by
  constructor
  · intro s id dlc data r hh hl hm
    exact ⟨_, frame_recognized hh hl hm, rfl, recognized_recognizedState r dlc data s⟩
  · intro s sidh sidl eid8 eid0 dlcreg d r hh hext hl hm
    rw [← clampDlc_regsDlc] at hm ⊢
    rw [exec_frameInRegs, regsExt, hext]
    exact ⟨_, frame_recognized hh hl hm, rfl, recognized_recognizedState r (regsDlc dlcreg) d s⟩

/-- The ID from the four ID registers as a number (R148, R149). -/
theorem regsId_toNat (sidh sidl eid8 eid0 : Byte) :
    (regsId sidh sidl eid8 eid0).toNat =
      if regsExt sidl then
        (sidh.toNat * 8 + sidl.toNat / 32) * 2 ^ 18 + (sidl.toNat % 4) * 2 ^ 16 + eid8.toNat * 256 + eid0.toNat
      else sidh.toNat * 8 + sidl.toNat / 32 := by
  have hsidh := sidh.isLt
  have hsidl := sidl.isLt
  have sid : (sidh ++ sidl.extractLsb' 5 3).toNat = sidh.toNat * 8 + sidl.toNat / 32 := by
    rw [BitVec.toNat_append, ← Nat.shiftLeft_add_eq_or_of_lt (BitVec.isLt _), Nat.shiftLeft_eq,
      BitVec.extractLsb'_toNat, Nat.shiftRight_eq_div_pow]
    omega
  unfold regsId
  split
  · rw [toNat_append_byte, toNat_append_byte, BitVec.toNat_append,
      ← Nat.shiftLeft_add_eq_or_of_lt (BitVec.isLt _), Nat.shiftLeft_eq, sid, BitVec.extractLsb'_toNat,
      Nat.shiftRight_eq_div_pow]
    omega
  · rw [BitVec.toNat_setWidth, sid]
    omega

/-- Settles O24, with the ID that the model assembles. -/
theorem frameInRegsAssemblesTheFrame : Obligations.FrameInRegsAssemblesTheFrame := by
  intro sidh sidl eid8 eid0 dlcreg d
  refine ⟨regsId sidh sidl eid8 eid0, regsId_toNat sidh sidl eid8 eid0, fun s => ?_⟩
  rw [exec_frameInRegs, exec_frameIn, regsDlc_eq, regsExt]

/-- Settles O27: the same outcome meets both states, and a recognized one writes both alike. -/
theorem frameReadsOnlyItsOperands : Obligations.FrameReadsOnlyItsOperands := by
  intro s s' ext id dlc data hc hh hh'
  rcases frame_outcome s'.cfg ext id dlc data with ⟨code, dropped⟩ | ⟨r, recognized⟩
  · exact ⟨s.ended code, s'.ended code, dropped s hc hh, dropped s' rfl hh', rfl, .inr ⟨rfl, rfl⟩,
      fun _ => .inr ⟨rfl, rfl⟩, .inr ⟨rfl, rfl⟩⟩
  · refine ⟨recognizedState r dlc data s, recognizedState r dlc data s', recognized s hc hh,
      recognized s' rfl hh', rfl, .inl ⟨rfl, rfl⟩, ?_, ?_⟩
    all_goals simp only [recognizedState, State.ended_tx, State.withTx_tx, Tx.recognize_snap, hc]
    · exact writeAll_get_eq_or_kept _ s.tx.snap s'.tx.snap
    · exact writeAll_rpm_eq_or_kept _ s.tx.snap s'.tx.snap

end Sys2Proof.Machine

/-! ## The bytes a row reads, and the minimum DLC (R142, R158, R201) -/

namespace Sys2Proof.Machine

/-- One plus the highest byte that a read at `k` takes from the payload (R150 to R152, R154). -/
def readEnd (k : Nat) : Read → Nat
  | .u16 => k + 2
  | .s16 => k + 2
  | .u8 => k + 1
  | .flag => k + 1

/-- One plus the byte of the unit flag that a conversion takes, 0 where it takes none (R155, R156). -/
def flagEnd : Conv → Nat
  | .scaled => 0
  | .kpa flagAt => flagAt + 1
  | .degc flagAt => flagAt + 1
  | .oil => 0

/-- A row ends where its field and its unit flag have both been read (R158). -/
theorem rowEnd_eq (row : Descriptor) : rowEnd row = max (readEnd row.offset row.read) (flagEnd row.conv) := by
  obtain ⟨k, read, scale, conv, dest⟩ := row
  cases conv with
  | scaled | oil => cases read <;> exact (Nat.max_zero _).symm
  | kpa | degc => cases read <;> rfl

section ZeroFill
variable {n k : Nat}

/-- The zero fill leaves the bytes below the DLC (R142). -/
theorem byteAt_zeroFill_of_lt (h : k < n) (d : Payload) : byteAt (zeroFill n d) k = byteAt d k := by
  rw [byteAt_zeroFill, if_pos h]

/-- The zero fill leaves what is read below the DLC (R142, R158). -/
theorem rawOf_zeroFill {read : Read} (h : readEnd k read ≤ n) (d : Payload) :
    rawOf (zeroFill n d) k read = rawOf d k read := by
  have word : k + 2 ≤ n → fieldU (zeroFill n d) k = fieldU d k := fun h => by
    rw [fieldU, byteAt_zeroFill_of_lt (by omega), byteAt_zeroFill_of_lt (by omega), fieldU]
  cases read with
  | u16 => rw [rawOf, word h, rawOf]
  | s16 => rw [rawOf, fieldS, word h, rawOf, fieldS]
  | u8 => rw [rawOf, fieldB, byteAt_zeroFill_of_lt h, rawOf, fieldB]
  | flag => rw [rawOf, flagBit, byteAt_zeroFill_of_lt h, rawOf, flagBit]

/-- The zero fill leaves a unit flag below the DLC (R142, R158). -/
theorem flagBit_zeroFill (h : k + 1 ≤ n) (d : Payload) : flagBit (zeroFill n d) k = flagBit d k := by
  rw [flagBit, byteAt_zeroFill_of_lt h, flagBit]

/-- The zero fill leaves what a conversion gives whose unit flag is below the DLC (R142, R158). -/
theorem convert_zeroFill {conv : Conv} (h : flagEnd conv ≤ n) (cal : OilCal) (d : Payload) (raw : Int) (s : ℚ) :
    convert cal (zeroFill n d) raw s conv = convert cal d raw s conv := by
  cases conv with
  | scaled | oil => rfl
  | kpa | degc => rw [convert, convert, flagBit_zeroFill h]

/-- The zero fill leaves the value of a row that ends within the DLC (R142, R158). -/
theorem valueOf_zeroFill {row : Descriptor} (h : rowEnd row ≤ n) (cal : OilCal) (d : Payload) :
    valueOf cal (zeroFill n d) row = valueOf cal d row := by
  obtain ⟨hfield, hflag⟩ := max_le_iff.mp (rowEnd_eq row ▸ h)
  rw [valueOf, rawOf_zeroFill hfield, convert_zeroFill hflag, valueOf]

end ZeroFill

/-- Settles O25: each row of the routine ends within MinDlc, so within the DLC. -/
theorem zeroFillIsUnobservable : Obligations.ZeroFillIsUnobservable := by
  intro c r dlc d hm
  refine List.filterMap_congr fun row hrow => ?_
  have within : rowEnd row ≤ clampDlc dlc := (rowEnd_le_minDlc (List.mem_filter.mp hrow).1).trans hm
  simp only [evalRow, valueOf_zeroFill within]

/-- MinDlc depends on the field table, the oil source and the variant alone (R158, R198). -/
theorem minDlc_congr {c c' : Params} (ht : c.fieldTable = c'.fieldTable) (ho : c.oilSource = c'.oilSource)
    (hv : c.variant = c'.variant) (r : PE) : minDlc c r = minDlc c' r := by
  simp only [minDlc, rowsOf, withOilRow, leastDlc, ht, ho, hv]

/-- In BASIC, PE3 of the default table reads the oil word alone, or nothing where the oil source is elsewhere
(R199, R200). -/
theorem rowsOf_basic_pe3 {c : Params} (ht : c.fieldTable = defaultFieldTable) (hv : c.variant = .basic) :
    rowsOf c .pe3 = if c.oilSource.frame = .pe3 then [rowOil c.oilSource.offset] else [] := by
  have analog : (defaultFieldTable.pe3.filter (fun d => !isOilRow d)).filter (inBasic .pe3) = [] := by decide
  simp only [rowsOf, hv, withOilRow, ht, tableOf]
  by_cases ho : c.oilSource = defaultOilSource
  · rw [ho]
    decide
  · simp only [if_neg ho, if_true, List.filter_append, analog, List.nil_append]
    split <;> rfl

/-- R180, R200: in BASIC, PE3 of the default table needs its oil word, and two bytes in any case. -/
theorem minDlc_basic_pe3 {c : Params} (ht : c.fieldTable = defaultFieldTable) (hv : c.variant = .basic) :
    minDlc c .pe3 = if c.oilSource.frame = .pe3 then c.oilSource.offset + 2 else 2 := by
  have least : leastDlc c .pe3 = 2 := by simp only [leastDlc, hv, if_true]
  rw [minDlc, least, rowsOf_basic_pe3 ht hv]
  split
  · exact max_eq_right (Nat.le_add_left 2 _)
  · rfl

/-- A message's frame that is too short is dropped (R143). -/
theorem keyedFrame_short {s : State} {r : PE} {dlc : BitVec 4} {data : Payload} (hh : s.tx.halted = false)
    (ha : isActive s.cfg r = true) (hm : clampDlc dlc < minDlc s.cfg r) :
    keyedFrame r dlc data s = .next (s.ended .ignShortDlc) := by
  simp only [keyedFrame, unlessHalted_running (b := .tx) hh, ha, runRoutine_eq, if_pos hm]

/-- Settles O43: the minima are those of the default parameters in either variant. -/
theorem minimumDlcs : Obligations.MinimumDlcs := by
  refine ⟨fun c ht ho => ⟨fun hv => ?_, fun hv => ?_⟩, fun c => minDlc_basic_pe3, fun s r dlc d hh ha hm => ?_⟩
  · rw [funext (minDlc_congr (c' := defaultParams) ht ho hv)]
    decide
  · rw [funext (minDlc_congr (c' := { defaultParams with variant := .basic }) ht ho hv)]
    decide
  · rw [exec_ofKey]
    exact ⟨_, keyedFrame_short hh ha hm, onlyAnswers_ended s _⟩

end Sys2Proof.Machine

/-! ## The rows a message runs with the default field table (R182 to R200) -/

namespace Sys2Proof.Machine

section DefaultTable
variable {r : PE} {row : Descriptor}

/-- The default tables have one oil row, PE3's (R184). -/
theorem mem_default_oilRow : row ∈ tableOf defaultFieldTable r ∧ isOilRow row = true ↔ r = .pe3 ∧ row = rowOil 0 := by
  have oilRows : (tableOf defaultFieldTable r).filter isOilRow = if r = .pe3 then [rowOil 0] else [] := by
    cases r <;> rfl
  rw [← List.mem_filter, oilRows]
  split <;> simp [*]

/-- No two rows of a default table have one destination. -/
theorem default_dests_nodup (r : PE) : ((tableOf defaultFieldTable r).map Descriptor.dest).Nodup := by
  cases r <;> decide

/-- Only the oil row writes the oil pressure (R184). -/
theorem dest_ne_oilPsi (h : row ∈ tableOf defaultFieldTable r) (hoil : isOilRow row = false) :
    row.dest ≠ some (.val .oilPsi) := by
  have others : ∀ r, ∀ row ∈ tableOf defaultFieldTable r, isOilRow row = false → row.dest ≠ some (.val .oilPsi) := by
    intro r
    cases r <;> decide
  exact others r row h hoil

/-- Only PE1 writes `rpm` (R182). -/
theorem dest_ne_rpm (h : row ∈ tableOf defaultFieldTable r) (hr : r ≠ .pe1) : row.dest ≠ some .rpm := by
  have others : ∀ r ≠ PE.pe1, ∀ row ∈ tableOf defaultFieldTable r, row.dest ≠ some .rpm := by
    intro r
    cases r <;> decide
  exact others r hr row h

/-- Of the messages of BASIC, all but PE3 write basic fields alone (R200). -/
theorem inBasic_default (hr : r ∈ [PE.pe1, .pe2, .pe3, .pe5, .pe6, .pe9]) (hne : r ≠ .pe3)
    (h : row ∈ tableOf defaultFieldTable r) : inBasic r row = true := by
  have basic : ∀ r ∈ [PE.pe1, .pe2, .pe3, .pe5, .pe6, .pe9], r ≠ .pe3 →
      ∀ row ∈ tableOf defaultFieldTable r, inBasic r row = true := by decide
  exact basic r hr hne row h

/-- The fields of the default rows of a message, but for the oil row's, in table order (R182 to R197). -/
def ownFields (r : PE) : List Field :=
  ((tableOf defaultFieldTable r).filter fun row => !isOilRow row).filterMap fun row =>
    match row.dest with
    | some (.val f) => some f
    | some .rpm => none
    | none => none

theorem mem_ownFields {f : Field} : f ∈ ownFields r ↔
    ∃ row ∈ tableOf defaultFieldTable r, isOilRow row = false ∧ row.dest = some (.val f) := by
  simp only [ownFields, List.mem_filterMap, List.mem_filter, Bool.not_eq_true', and_assoc]
  refine exists_congr fun row => and_congr_right fun _ => and_congr_right fun _ => ?_
  rcases row.dest with _ | _ | g <;> simp

end DefaultTable

section Rows
variable {c : Params} {r : PE} {row row' : Descriptor}

/-- P_OIL_SOURCE places the one oil row and moves no other (R199). -/
theorem mem_withOilRow : row ∈ withOilRow c r (tableOf defaultFieldTable r) ↔
    (c.oilSource.frame = r ∧ row = rowOil c.oilSource.offset)
      ∨ (row ∈ tableOf defaultFieldTable r ∧ isOilRow row = false) := by
  unfold withOilRow
  by_cases ho : c.oilSource = defaultOilSource
  · have oil : c.oilSource.frame = r ∧ row = rowOil c.oilSource.offset ↔
        row ∈ tableOf defaultFieldTable r ∧ isOilRow row = true := by
      rw [mem_default_oilRow, ho, eq_comm (b := r)]
      rfl
    rw [if_pos ho, oil, ← and_or_left]
    cases isOilRow row <;> simp
  · have own : row ∈ (if r = .pe3 then (tableOf defaultFieldTable r).filter (fun d => !isOilRow d)
          else tableOf defaultFieldTable r) ↔
        row ∈ tableOf defaultFieldTable r ∧ isOilRow row = false := by
      split
      · simp only [List.mem_filter, Bool.not_eq_true']
      next hr =>
        exact (and_iff_left_of_imp fun h =>
          Bool.eq_false_of_not_eq_true fun oil => hr (mem_default_oilRow.mp ⟨h, oil⟩).1).symm
    have moved : row ∈ (if c.oilSource.frame = r then [rowOil c.oilSource.offset] else []) ↔
        c.oilSource.frame = r ∧ row = rowOil c.oilSource.offset := by
      split <;> simp [*]
    rw [if_neg ho, List.mem_append, own, moved, or_comm]

/-- The rows of a message with the default field table: the oil row where P_OIL_SOURCE puts it on the message, and
its own, of which BASIC has some (R199, R200). -/
theorem mem_rowsOf (ht : c.fieldTable = defaultFieldTable) : row ∈ rowsOf c r ↔
    (c.oilSource.frame = r ∧ row = rowOil c.oilSource.offset)
      ∨ (row ∈ tableOf defaultFieldTable r ∧ isOilRow row = false ∧ (c.variant = .basic → inBasic r row = true)) := by
  have stays : c.oilSource.frame = r ∧ row = rowOil c.oilSource.offset → inBasic r row = true := by
    rintro ⟨-, rfl⟩
    cases r <;> rfl
  rw [rowsOf, ht]
  cases hv : c.variant with
  | extended => simpa using mem_withOilRow
  | basic =>
    simp only [List.mem_filter, mem_withOilRow, or_and_right, and_iff_left_of_imp stays, and_assoc, forall_const]

/-- A routine writes a row it reads, but for `lambda` where the policy excludes the message (R198). -/
theorem mem_writingRowsOf : row ∈ writingRowsOf c r ↔
    row ∈ rowsOf c r ∧ (row.dest = some (.val .lambda) → mayWriteLambda c.lambdaSource r = true) := by
  simp [writingRowsOf, isLambdaRow, List.mem_filter, imp_iff_not_or]

/-- What a routine writes is the oil word's row or one of the message's own (R199). -/
theorem cases_of_mem_writingRowsOf (ht : c.fieldTable = defaultFieldTable) (h : row ∈ writingRowsOf c r) :
    (c.oilSource.frame = r ∧ row = rowOil c.oilSource.offset)
      ∨ (row ∈ tableOf defaultFieldTable r ∧ isOilRow row = false) :=
  ((mem_rowsOf ht).mp (mem_writingRowsOf.mp h).1).imp_right fun ⟨hrow, hoil, _⟩ => ⟨hrow, hoil⟩

/-- No two rows of a routine have one destination (R182 to R199). -/
theorem row_eq_of_dest_eq (ht : c.fieldTable = defaultFieldTable) (h : row ∈ writingRowsOf c r)
    (h' : row' ∈ writingRowsOf c r) (same : row.dest = row'.dest) : row = row' := by
  rcases cases_of_mem_writingRowsOf ht h with ⟨-, rfl⟩ | ⟨hrow, hoil⟩ <;>
    rcases cases_of_mem_writingRowsOf ht h' with ⟨-, rfl⟩ | ⟨hrow', hoil'⟩
  · rfl
  · exact absurd same.symm (dest_ne_oilPsi hrow' hoil')
  · exact absurd same (dest_ne_oilPsi hrow hoil)
  · exact List.inj_on_of_nodup_map (default_dests_nodup r) hrow hrow' same

/-- MinDlc is at most `n` exactly when what R200 asks and the end of each row are (R158). -/
theorem minDlc_le_iff {n : Nat} : minDlc c r ≤ n ↔ leastDlc c r ≤ n ∧ ∀ row ∈ rowsOf c r, rowEnd row ≤ n := by
  have bounded : ∀ (rows : List Descriptor) (m : Nat),
      rows.foldl (fun m d => max m (rowEnd d)) m ≤ n ↔ m ≤ n ∧ ∀ row ∈ rows, rowEnd row ≤ n := by
    intro rows
    induction rows with
    | nil => simp
    | cons row rows ih => simp [ih, and_assoc]
  exact bounded _ _

/-- The minima of the default parameters are between 2 and 8 (R158, R201). -/
theorem minDlc_default_bounds (r : PE) : 2 ≤ minDlc defaultParams r ∧ minDlc defaultParams r ≤ 8 := by
  cases r <;> decide

/-- What R200 asks of PE3 is 2 (R180). -/
theorem leastDlc_le (c : Params) (r : PE) : leastDlc c r ≤ 2 := by
  unfold leastDlc
  split
  · exact Nat.zero_le 2
  · split <;> decide

/-- A frame that is long enough for the default rows, and for the oil row where it is on the message, is long
enough (R158, R199). -/
theorem minDlc_le_of_oilFits (ht : c.fieldTable = defaultFieldTable) {dlc : BitVec 4} (fits : OilFits c r dlc)
    (long : minDlc defaultParams r ≤ dlc.toNat) : minDlc c r ≤ clampDlc dlc := by
  obtain ⟨two, eight⟩ := minDlc_default_bounds r
  have default_le : minDlc defaultParams r ≤ clampDlc dlc := le_min long eight
  refine minDlc_le_iff.mpr ⟨((leastDlc_le c r).trans two).trans default_le, fun row hrow => ?_⟩
  rcases (mem_rowsOf ht).mp hrow with ⟨here, rfl⟩ | ⟨hrow, -, -⟩
  · exact fits here
  · exact (rowEnd_le_minDlc (c := defaultParams) hrow).trans default_le

end Rows

section Writes
variable {ws : List Write}

/-- A field that the writes give one value holds it (R145). -/
theorem writeAll_get_of_sole {f : Field} {v : ℚ} (h : .val f v ∈ ws) (sole : ∀ v', .val f v' ∈ ws → v' = v)
    (s : Snapshot) : (s.writeAll ws).get f = v := by
  rw [writeAll_get_of_written ⟨v, h⟩ s (s.set f v)]
  rcases writeAll_get_cases ws (s.set f v) f with ⟨v', hv', he⟩ | he
  · rw [he, sole v' hv']
  · rw [he, Snapshot.get_set_self]

/-- `rpm` holds the one value that the writes give it (R145). -/
theorem writeAll_rpm_of_sole {v : Word16} (h : .rpm v ∈ ws) (sole : ∀ v', .rpm v' ∈ ws → v' = v) (s : Snapshot) :
    (s.writeAll ws).rpm = v := by
  induction ws generalizing s with
  | nil => cases h
  | cons w ws ih =>
    rw [writeAll_cons]
    by_cases later : ∃ v', .rpm v' ∈ ws
    · obtain ⟨v', hv'⟩ := later
      obtain rfl := sole v' (List.mem_cons_of_mem _ hv')
      exact ih hv' (fun u hu => sole u (List.mem_cons_of_mem _ hu)) _
    · have last := not_exists.mp later
      obtain rfl : w = .rpm v := ((List.mem_cons.mp h).resolve_right (last v)).symm
      rw [writeAll_rpm_of_not_written last]
      rfl

end Writes

/-! ### Frames of a message that pass its checks -/

/-- A message's frame passes the checks of R140 under the default field table. -/
structure Passes (s : State) (r : PE) (dlc : BitVec 4) : Prop where
  ready : Ready s r
  long : minDlc s.cfg r ≤ clampDlc dlc

namespace Passes
variable {s : State} {r : PE} {dlc : BitVec 4} (h : Passes s r dlc) (d : Payload)
include h

theorem table : s.cfg.fieldTable = defaultFieldTable :=
  have ⟨_, table, _⟩ := h.ready
  table

theorem active : isActive s.cfg r = true :=
  have ⟨_, _, active⟩ := h.ready
  active

/-- The message's own frame is recognized (R140). -/
theorem exec_ofKey : exec (.ofKey r dlc d) s = .next (recognizedState r dlc d s) := by
  obtain ⟨running, -, active⟩ := h.ready
  simp only [Machine.exec_ofKey, keyedFrame, unlessHalted_running (b := .tx) running, active, runRoutine_eq,
    if_neg (not_lt.mpr h.long)]

/-- So is the same frame through FRAME_IN where no ID is repeated (R140, R180). -/
theorem exec_frameIn {id : CanId} (hid : idOf s.cfg r = some id) (distinct : s.cfg.distinctIds = true) :
    exec (.frameIn true id dlc d) s = .next (recognizedState r dlc d s) := by
  obtain ⟨running, -, -⟩ := h.ready
  exact frame_recognized running (lookup_of_active ((Params.distinctIds_iff s.cfg).mp distinct) h.active hid) h.long

/-- The frame leaves the writes of its whole payload, as the zero fill is unobservable (R142, R145). -/
theorem snap_eq : (recognizedState r dlc d s).tx.snap = s.tx.snap.writeAll (routine s.cfg r d) :=
  congrArg s.tx.snap.writeAll (zeroFillIsUnobservable s.cfg r dlc d h.long)

section Row
variable {row : Descriptor} (hrow : row ∈ writingRowsOf s.cfg r)
include hrow

/-- A row's field holds the row's value (R111, R140). -/
theorem get_of_row {f : Field} (hd : row.dest = some (.val f)) :
    (recognizedState r dlc d s).tx.snap.get f = valueOf s.cfg.oilCal d row := by
  rw [h.snap_eq]
  refine writeAll_get_of_sole (mem_routine.mpr ⟨row, hrow, evalRow_eq_val.mpr ⟨hd, rfl⟩⟩) ?_ _
  intro v hv
  obtain ⟨row', hrow', he⟩ := mem_routine.mp hv
  obtain ⟨hd', rfl⟩ := evalRow_eq_val.mp he
  rw [row_eq_of_dest_eq h.table hrow' hrow (hd'.trans hd.symm)]

/-- A row that names `rpm` gives it the row's value (R111, R140). -/
theorem rpm_of_row (hd : row.dest = some .rpm) :
    (recognizedState r dlc d s).tx.snap.rpm = toRpm (valueOf s.cfg.oilCal d row) := by
  rw [h.snap_eq]
  refine writeAll_rpm_of_sole (mem_routine.mpr ⟨row, hrow, evalRow_eq_rpm.mpr ⟨hd, rfl⟩⟩) ?_ _
  intro v hv
  obtain ⟨row', hrow', he⟩ := mem_routine.mp hv
  obtain ⟨hd', rfl⟩ := evalRow_eq_rpm.mp he
  rw [row_eq_of_dest_eq h.table hrow' hrow (hd'.trans hd.symm)]

end Row

/-- A field that no row names keeps its value (R181). -/
theorem get_kept {f : Field} (unnamed : ∀ row ∈ writingRowsOf s.cfg r, row.dest ≠ some (.val f)) :
    (recognizedState r dlc d s).tx.snap.get f = s.tx.snap.get f := by
  rw [h.snap_eq]
  refine writeAll_get_of_not_written (fun v hv => ?_) _
  obtain ⟨row, hrow, he⟩ := mem_routine.mp hv
  exact unnamed row hrow (evalRow_eq_val.mp he).1

/-- `rpm` keeps its value where no row names it (R181). -/
theorem rpm_kept (unnamed : ∀ row ∈ writingRowsOf s.cfg r, row.dest ≠ some .rpm) :
    (recognizedState r dlc d s).tx.snap.rpm = s.tx.snap.rpm := by
  rw [h.snap_eq]
  refine writeAll_rpm_of_not_written (fun v hv => ?_) _
  obtain ⟨row, hrow, he⟩ := mem_routine.mp hv
  exact unnamed row hrow (evalRow_eq_rpm.mp he).1

/-- Every message but PE1 keeps `rpm` (R182). -/
theorem rpm_kept_of_ne (hr : r ≠ .pe1) : (recognizedState r dlc d s).tx.snap.rpm = s.tx.snap.rpm := by
  refine h.rpm_kept d fun row hrow => ?_
  rcases cases_of_mem_writingRowsOf h.table hrow with ⟨-, rfl⟩ | ⟨hrow, -⟩
  · exact nofun
  · exact dest_ne_rpm hrow hr

/-- `lambda` stands where the policy excludes the message (R198). -/
theorem lambda_kept (excluded : mayWriteLambda s.cfg.lambdaSource r = false) :
    (recognizedState r dlc d s).tx.snap.get .lambda = s.tx.snap.get .lambda :=
  h.get_kept d fun _ hrow hd => Bool.eq_false_iff.mp excluded ((mem_writingRowsOf.mp hrow).2 hd)

/-- The oil pressure stands where P_OIL_SOURCE names another message (R199). -/
theorem oilPsi_kept (elsewhere : s.cfg.oilSource.frame ≠ r) :
    (recognizedState r dlc d s).tx.snap.get .oilPsi = s.tx.snap.get .oilPsi := by
  refine h.get_kept d fun row hrow => ?_
  rcases cases_of_mem_writingRowsOf h.table hrow with ⟨here, -⟩ | ⟨hrow, hoil⟩
  · exact absurd here elsewhere
  · exact dest_ne_oilPsi hrow hoil

/-- The message that P_OIL_SOURCE names gives the oil pressure from its word (R157, R199). -/
theorem oilPressure (here : s.cfg.oilSource.frame = r) :
    OilPressure s.cfg d ((recognizedState r dlc d s).tx.snap.get .oilPsi) := by
  intro hdiv
  have hrow : rowOil s.cfg.oilSource.offset ∈ writingRowsOf s.cfg r :=
    mem_writingRowsOf.mpr ⟨(mem_rowsOf h.table).mpr (.inl ⟨here, rfl⟩), nofun⟩
  exact (h.get_of_row d hrow rfl).trans (if_neg hdiv)

/-- The frame changes at most the message's own fields and the oil pressure, beside `rpm` and `hraf`
(R144, R181, R199). -/
theorem recognized : Recognized (ownFields r ++ oilFields s.cfg r) s (recognizedState r dlc d s) := by
  obtain ⟨only, noPacket, answer, hraf, -, others⟩ := recognized_recognizedState r dlc d s
  refine ⟨only, noPacket, answer, hraf, fun f hf => h.get_kept d fun row hrow hd => hf ?_, others⟩
  rcases cases_of_mem_writingRowsOf h.table hrow with ⟨here, rfl⟩ | ⟨hrow, hoil⟩
  · obtain rfl : Field.oilPsi = f := by simpa [rowOil] using hd
    exact List.mem_append_right _ (by simp [oilFields, here])
  · exact List.mem_append_left _ (mem_ownFields.mpr ⟨row, hrow, hoil, hd⟩)

end Passes

/-- A frame that passes the checks, of a message that runs all its default rows: PE3 has them in EXTENDED alone
(R200). -/
structure RunsTable (s : State) (r : PE) (dlc : BitVec 4) : Prop extends Passes s r dlc where
  whole : r = .pe3 → s.cfg.variant = .extended

namespace RunsTable
variable {s : State} {r : PE} {dlc : BitVec 4}

/-- A frame long enough for its message's rows (R201). -/
theorem of_ready (ready : Ready s r) (whole : r = .pe3 → s.cfg.variant = .extended) (fits : OilFits s.cfg r dlc)
    (long : minDlc defaultParams r ≤ dlc.toNat) : RunsTable s r dlc :=
  have ⟨_, table, _⟩ := ready
  ⟨⟨ready, minDlc_le_of_oilFits table fits long⟩, whole⟩

variable (h : RunsTable s r dlc) (d : Payload)
include h

/-- A default row writes, but for the oil row and for what the lambda policy excludes (R198, R199, R200). -/
theorem mem_writingRowsOf_of_default {row : Descriptor} (hrow : row ∈ tableOf defaultFieldTable r)
    (hoil : isOilRow row = false)
    (hl : row.dest = some (.val .lambda) → mayWriteLambda s.cfg.lambdaSource r = true) :
    row ∈ writingRowsOf s.cfg r := by
  refine mem_writingRowsOf.mpr ⟨(mem_rowsOf h.table).mpr (.inr ⟨hrow, hoil, fun hv => ?_⟩), hl⟩
  rcases (isActive_iff s.cfg r).mp h.active with ⟨he, -⟩ | ⟨-, hr⟩
  · exact absurd (hv.symm.trans he) nofun
  · exact inBasic_default hr (fun e => absurd (hv.symm.trans (h.whole e)) nofun) hrow

/-- The field of a default row holds the row's value (R111, R140). -/
theorem get_of_default {row : Descriptor} {f : Field} (hrow : row ∈ tableOf defaultFieldTable r)
    (hoil : isOilRow row = false) (hd : row.dest = some (.val f))
    (hl : f = .lambda → mayWriteLambda s.cfg.lambdaSource r = true) :
    (recognizedState r dlc d s).tx.snap.get f = valueOf s.cfg.oilCal d row :=
  h.get_of_row d (h.mem_writingRowsOf_of_default hrow hoil fun e => hl (by simpa using hd.symm.trans e)) hd

section Value
variable (k : Nat) (scale : ℚ) (f : Field)

/-- A row `S × s` (R151, R153). -/
theorem get_rowS (hrow : rowS k scale f ∈ tableOf defaultFieldTable r := by simp [tableOf, defaultFieldTable])
    (hl : f = .lambda → mayWriteLambda s.cfg.lambdaSource r = true := by nofun) :
    (recognizedState r dlc d s).tx.snap.get f = (s16 (u16 (byteAt d k) (byteAt d (k + 1))) : ℚ) * scale :=
  h.get_of_default d hrow rfl rfl hl

/-- A row `U × s` (R150, R153). -/
theorem get_rowU (hrow : rowU k scale f ∈ tableOf defaultFieldTable r := by simp [tableOf, defaultFieldTable])
    (hl : f = .lambda → mayWriteLambda s.cfg.lambdaSource r = true := by nofun) :
    (recognizedState r dlc d s).tx.snap.get f = ((u16 (byteAt d k) (byteAt d (k + 1))).toNat : ℚ) * scale := by
  rw [← Int.cast_natCast]
  exact h.get_of_default d hrow rfl rfl hl

/-- A row `B × s` (R152, R153). -/
theorem get_rowB (hrow : rowB k scale f ∈ tableOf defaultFieldTable r := by simp [tableOf, defaultFieldTable])
    (hl : f = .lambda → mayWriteLambda s.cfg.lambdaSource r = true := by nofun) :
    (recognizedState r dlc d s).tx.snap.get f = ((byteAt d k).toNat : ℚ) * scale := by
  rw [← Int.cast_natCast]
  exact h.get_of_default d hrow rfl rfl hl

/-- A row `U × s` with the pressure conversion (R155, R183). -/
theorem get_rowKpa (flagAt : Nat)
    (hrow : rowKpa k scale flagAt f ∈ tableOf defaultFieldTable r := by simp [tableOf, defaultFieldTable])
    (hl : f = .lambda → mayWriteLambda s.cfg.lambdaSource r = true := by nofun) :
    (recognizedState r dlc d s).tx.snap.get f =
      kpa (((u16 (byteAt d k) (byteAt d (k + 1))).toNat : ℚ) * scale) (flagBit d flagAt) := by
  rw [← Int.cast_natCast]
  exact h.get_of_default d hrow rfl rfl hl

/-- A row `S × s` with the temperature conversion (R156, R187). -/
theorem get_rowDegc (flagAt : Nat)
    (hrow : rowDegc k scale flagAt f ∈ tableOf defaultFieldTable r := by simp [tableOf, defaultFieldTable])
    (hl : f = .lambda → mayWriteLambda s.cfg.lambdaSource r = true := by nofun) :
    (recognizedState r dlc d s).tx.snap.get f =
      degc ((s16 (u16 (byteAt d k) (byteAt d (k + 1))) : ℚ) * scale) (flagBit d flagAt) :=
  h.get_of_default d hrow rfl rfl hl

end Value
end RunsTable

/-- So with a message other than PE3, whatever the variant. -/
theorem RunsTable.of_ne_pe3 {s : State} {r : PE} {dlc : BitVec 4} (ready : Ready s r) (fits : OilFits s.cfg r dlc)
    (long : minDlc defaultParams r ≤ dlc.toNat) (hr : r ≠ .pe3 := by decide) : RunsTable s r dlc :=
  .of_ready ready (fun e => absurd e hr) fits long

/-! ### The messages with the default field table (R182 to R197) -/

/-- Settles O28: the raw speed is a word, so it is its own value as `rpm`. -/
theorem pe1WritesEngineFields : Obligations.Pe1WritesEngineFields := by
  intro s dlc d ready fits long
  have run : RunsTable s .pe1 dlc := .of_ne_pe3 ready fits long
  have speed : (recognizedState .pe1 dlc d s).tx.snap.rpm = u16 d.d0 d.d1 := by
    have hrow : ⟨0, .u16, 1, .scaled, some .rpm⟩ ∈ writingRowsOf s.cfg .pe1 :=
      run.mem_writingRowsOf_of_default (.head _) rfl nofun
    refine (run.rpm_of_row d hrow rfl).trans ?_
    simp [valueOf, convert, rawOf, fieldU, byteAt]
  exact ⟨_, run.exec_ofKey d, run.exec_frameIn d rfl, run.recognized d, speed, run.get_rowS d 2 (1 / 10) .tpsPct,
    run.get_rowS d 4 (1 / 10) .fotMs, run.get_rowS d 6 (1 / 10) .ignDeg⟩

/-- The flag of an even payload byte is 0 (R154). -/
theorem flagBit_eq_false_iff (d : Payload) (k : Nat) : flagBit d k = false ↔ (byteAt d k).toNat % 2 = 0 := by
  rw [← Bool.not_eq_true, flagBit_iff, Nat.mod_two_not_eq_one]

/-- PE2 may write `lambda` unless PE9 alone does (R198). -/
theorem mayWriteLambda_pe2 (p : LambdaSource) : mayWriteLambda p .pe2 = true ↔ p ≠ .pe9Only := by
  cases p <;> decide

/-- PE9 may write `lambda` unless PE2 alone does (R198). -/
theorem mayWriteLambda_pe9 (p : LambdaSource) : mayWriteLambda p .pe9 = true ↔ p ≠ .pe2Only := by
  cases p <;> decide

/-- Settles O29: the unit flag picks the kept or the converted pressure, the policy whether `lambda` is written. -/
theorem pe2WritesPressuresAndLambda : Obligations.Pe2WritesPressuresAndLambda := by
  intro s dlc d ready fits long
  have run : RunsTable s .pe2 dlc := .of_ne_pe3 ready fits long
  have baro := run.get_rowKpa d 0 (1 / 100) .baroKpa 6
  have map := run.get_rowKpa d 2 (1 / 100) .mapKpa 6
  refine ⟨_, run.exec_ofKey d, run.exec_frameIn d rfl, run.recognized d, run.rpm_kept_of_ne d nofun,
    fun flag => ?_, fun flag => ?_, fun may => ?_, fun only => ?_⟩
  · rw [baro, map, (flagBit_iff d 6).mpr flag]
    exact ⟨rfl, rfl⟩
  · rw [baro, map, (flagBit_eq_false_iff d 6).mpr flag]
    exact ⟨rfl, rfl⟩
  · exact run.get_rowU d 4 (1 / 100) .lambda (hl := fun _ => (mayWriteLambda_pe2 _).mpr may)
  · exact run.lambda_kept d (by rw [only]; rfl)

/-- Settles O30: EXTENDED runs all of PE3's rows, BASIC the oil row alone. -/
theorem pe3WritesAnalogInputsAndOil : Obligations.Pe3WritesAnalogInputsAndOil := by
  intro s dlc d ready fits
  refine ⟨fun hv long => ?_, fun hv here => ?_, fun ho hc long => ?_⟩
  · have run : RunsTable s .pe3 dlc := .of_ready ready (fun _ => hv) fits long
    exact ⟨_, run.exec_ofKey d, run.exec_frameIn d rfl, run.recognized d, run.rpm_kept_of_ne d nofun,
      run.get_rowS d 0 (1 / 1000) .ai1V, run.get_rowS d 2 (1 / 1000) .ai2V, run.get_rowS d 4 (1 / 1000) .ai3V,
      run.get_rowS d 6 (1 / 1000) .ai4V, run.oilPressure d⟩
  · have ⟨_, ht, _⟩ := ready
    have pass : Passes s .pe3 dlc := ⟨ready, by rw [minDlc_basic_pe3 ht hv, if_pos here]; exact fits here⟩
    have oilAlone : writtenFields s.cfg .pe3 = [.oilPsi] := by
      rw [writtenFields, writingRowsOf, rowsOf_basic_pe3 ht hv, if_pos here]
      rfl
    exact ⟨_, pass.exec_ofKey d, pass.exec_frameIn d rfl, oilAlone ▸ recognized_recognizedState .pe3 dlc d s,
      pass.rpm_kept_of_ne d nofun, pass.oilPressure d here⟩
  · have ⟨_, ht, _⟩ := ready
    have pass : Passes s .pe3 dlc := ⟨ready, minDlc_le_of_oilFits ht fits long⟩
    have value := pass.oilPressure d (by rw [ho]; rfl) (by rw [hc]; simp [defaultOilCal])
    rw [hc, ho] at value
    exact ⟨_, pass.exec_ofKey d, value⟩

/-- Settles O31, row by row of PE4's table. -/
theorem pe4WritesAnalogInputs : Obligations.Pe4WritesAnalogInputs := by
  intro s dlc d ready fits long
  have run : RunsTable s .pe4 dlc := .of_ne_pe3 ready fits long
  exact ⟨_, run.exec_ofKey d, run.exec_frameIn d rfl, run.recognized d, run.rpm_kept_of_ne d nofun,
    run.get_rowS d 0 (1 / 1000) .ai5V, run.get_rowS d 2 (1 / 1000) .ai6V, run.get_rowS d 4 (1 / 1000) .ai7V,
    run.get_rowS d 6 (1 / 1000) .ai8V⟩

/-- Settles O32, row by row of PE5's table. -/
theorem pe5WritesWheelSpeeds : Obligations.Pe5WritesWheelSpeeds := by
  intro s dlc d ready fits long
  have run : RunsTable s .pe5 dlc := .of_ne_pe3 ready fits long
  exact ⟨_, run.exec_ofKey d, run.exec_frameIn d rfl, run.recognized d, run.rpm_kept_of_ne d nofun,
    run.get_rowU d 0 (1 / 5) .wsFlHz, run.get_rowU d 2 (1 / 5) .wsFrHz, run.get_rowU d 4 (1 / 5) .wsBlHz,
    run.get_rowU d 6 (1 / 5) .wsBrHz⟩

/-- Settles O33: the unit flag picks the kept or the converted temperature. -/
theorem pe6WritesBatteryAndTemperatures : Obligations.Pe6WritesBatteryAndTemperatures := by
  intro s dlc d ready fits long
  have run : RunsTable s .pe6 dlc := .of_ne_pe3 ready fits long
  have air := run.get_rowDegc d 2 (1 / 10) .airC 6
  have coolant := run.get_rowDegc d 4 (1 / 10) .coolantC 6
  refine ⟨_, run.exec_ofKey d, run.exec_frameIn d rfl, run.recognized d, run.rpm_kept_of_ne d nofun,
    run.get_rowS d 0 (1 / 100) .battV, fun flag => ?_, fun flag => ?_⟩
  · rw [air, coolant, (flagBit_iff d 6).mpr flag]
    exact ⟨rfl, rfl⟩
  · rw [air, coolant, (flagBit_eq_false_iff d 6).mpr flag]
    exact ⟨rfl, rfl⟩

/-- Settles O34, row by row of the two tables. -/
theorem pe7AndPe15WriteTwoFields : Obligations.Pe7AndPe15WriteTwoFields := by
  intro s dlc d long
  refine ⟨fun ready fits => ?_, fun ready fits => ?_⟩
  · have run : RunsTable s .pe7 dlc := .of_ne_pe3 ready fits long
    exact ⟨_, run.exec_ofKey d, run.exec_frameIn d rfl, run.recognized d, run.rpm_kept_of_ne d nofun,
      run.get_rowS d 0 (1 / 10) .therm5Temp, run.get_rowS d 2 (1 / 10) .therm7Temp⟩
  · have run : RunsTable s .pe15 dlc := .of_ne_pe3 ready fits long
    exact ⟨_, run.exec_ofKey d, run.exec_frameIn d rfl, run.recognized d, run.rpm_kept_of_ne d nofun,
      run.get_rowS d 0 (1 / 10) .fuelCompBaroPct, run.get_rowS d 2 (1 / 10) .fuelCompMapPct⟩

/-- Settles O35: a scale of 1 leaves the raw value. -/
theorem pe8WritesRates : Obligations.Pe8WritesRates := by
  intro s dlc d ready fits long
  have run : RunsTable s .pe8 dlc := .of_ne_pe3 ready fits long
  exact ⟨_, run.exec_ofKey d, run.exec_frameIn d rfl, run.recognized d, run.rpm_kept_of_ne d nofun,
    (run.get_rowS d 0 1 .rpmRate).trans (mul_one _), (run.get_rowS d 2 1 .tpsRate).trans (mul_one _),
    (run.get_rowS d 4 1 .mapRate).trans (mul_one _), run.get_rowS d 6 (1 / 10) .mafLoadRate⟩

/-- Settles O36: the policy decides whether the row of `lambda` is written. -/
theorem pe9WritesLambdas : Obligations.Pe9WritesLambdas := by
  intro s dlc d ready fits long
  have run : RunsTable s .pe9 dlc := .of_ne_pe3 ready fits long
  refine ⟨_, run.exec_ofKey d, run.exec_frameIn d rfl, run.recognized d, run.rpm_kept_of_ne d nofun,
    run.get_rowU d 2 (1 / 100) .lambda2, run.get_rowU d 4 (1 / 100) .lambdaTarget, fun may => ?_, fun only => ?_⟩
  · exact run.get_rowU d 0 (1 / 100) .lambda (hl := fun _ => (mayWriteLambda_pe9 _).mpr may)
  · exact run.lambda_kept d (by rw [only]; rfl)

/-- Settles O37, row by row of PE10's table. -/
theorem pe10WritesDutyCycles : Obligations.Pe10WritesDutyCycles := by
  intro s dlc d ready fits long
  have run : RunsTable s .pe10 dlc := .of_ne_pe3 ready fits long
  exact ⟨_, run.exec_ofKey d, run.exec_frameIn d rfl, run.recognized d, run.rpm_kept_of_ne d nofun,
    run.get_rowB d 0 (1 / 2) .pwmDutyPct1, run.get_rowB d 1 (1 / 2) .pwmDutyPct2,
    run.get_rowB d 2 (1 / 2) .pwmDutyPct3, run.get_rowB d 3 (1 / 2) .pwmDutyPct4,
    run.get_rowB d 4 (1 / 2) .pwmDutyPct5, run.get_rowB d 5 (1 / 2) .pwmDutyPct6,
    run.get_rowB d 6 (1 / 2) .pwmDutyPct7, run.get_rowB d 7 (1 / 2) .pwmDutyPct8⟩

/-- Settles O38, row by row of PE11's table. -/
theorem pe11WritesSlipAndTraction : Obligations.Pe11WritesSlipAndTraction := by
  intro s dlc d ready fits long
  have run : RunsTable s .pe11 dlc := .of_ne_pe3 ready fits long
  exact ⟨_, run.exec_ofKey d, run.exec_frameIn d rfl, run.recognized d, run.rpm_kept_of_ne d nofun,
    run.get_rowS d 0 (1 / 10) .slipPct, run.get_rowS d 2 (1 / 10) .drivenWheelRoc,
    run.get_rowS d 4 (1 / 10) .tractionDesiredPct⟩

/-- Settles O39, row by row of the two tables. -/
theorem pe12AndPe13WriteFourTenths : Obligations.Pe12AndPe13WriteFourTenths := by
  intro s dlc d long
  refine ⟨fun ready fits => ?_, fun ready fits => ?_⟩
  · have run : RunsTable s .pe12 dlc := .of_ne_pe3 ready fits long
    exact ⟨_, run.exec_ofKey d, run.exec_frameIn d rfl, run.recognized d, run.rpm_kept_of_ne d nofun,
      run.get_rowS d 0 (1 / 10) .drivenAvgWs, run.get_rowS d 2 (1 / 10) .nondrivenAvgWs,
      run.get_rowS d 4 (1 / 10) .ignCompDeg, run.get_rowS d 6 (1 / 10) .ignCutPct⟩
  · have run : RunsTable s .pe13 dlc := .of_ne_pe3 ready fits long
    exact ⟨_, run.exec_ofKey d, run.exec_frameIn d rfl, run.recognized d, run.rpm_kept_of_ne d nofun,
      run.get_rowS d 0 (1 / 10) .drivenWs1, run.get_rowS d 2 (1 / 10) .drivenWs2,
      run.get_rowS d 4 (1 / 10) .nondrivenWs1, run.get_rowS d 6 (1 / 10) .nondrivenWs2⟩

/-- Settles O40: PE16's ID is P_PE16_ID. -/
theorem pe14AndPe16WriteFourTenths : Obligations.Pe14AndPe16WriteFourTenths := by
  intro s dlc d long
  refine ⟨fun ready fits => ?_, fun ready fits => ?_⟩
  · have run : RunsTable s .pe14 dlc := .of_ne_pe3 ready fits long
    exact ⟨_, run.exec_ofKey d, run.exec_frameIn d rfl, run.recognized d, run.rpm_kept_of_ne d nofun,
      run.get_rowS d 0 (1 / 10) .fuelCompAccelPct, run.get_rowS d 2 (1 / 10) .fuelCompStartPct,
      run.get_rowS d 4 (1 / 10) .fuelCompAirPct, run.get_rowS d 6 (1 / 10) .fuelCompCoolantPct⟩
  · have run : RunsTable s .pe16 dlc := .of_ne_pe3 ready fits long
    exact ⟨_, run.exec_ofKey d, fun _ => run.exec_frameIn d, run.recognized d, run.rpm_kept_of_ne d nofun,
      run.get_rowS d 0 (1 / 10) .ignCompAirDeg, run.get_rowS d 2 (1 / 10) .ignCompCoolantDeg,
      run.get_rowS d 4 (1 / 10) .ignCompBaroDeg, run.get_rowS d 6 (1 / 10) .ignCompMapDeg⟩

/-! ### The lambda policy, the oil source and the messages left out (R198, R199, R200, R202) -/

/-- A recognized frame leaves the parameters and the running block as they are, so each message stays ready. -/
theorem Ready.of_recognized {s t : State} {r : PE} {fs : List Field} (ready : Ready s r) (rec : Recognized fs s t) :
    Ready t r ∧ t.cfg = s.cfg := by
  obtain ⟨⟨hcfg, -, -⟩, -, -, -, -, -, -, -, hhalted⟩ := rec
  rw [Ready, hhalted, hcfg]
  exact ⟨ready, rfl⟩

/-- Settles O41: the second frame meets the parameters of the first, and each of the two writes `lambda` as its own
statement says. -/
theorem lambdaPolicyAndLastWriter : Obligations.LambdaPolicyAndLastWriter := by
  refine ⟨fun c p r => minDlc_congr rfl rfl rfl r, fun s dlc2 dlc9 d2 d9 ready2 ready9 fits2 fits9 long2 long9 => ?_⟩
  obtain ⟨t2, exec2, -, rec2, -, -, -, -, kept2⟩ := pe2WritesPressuresAndLambda s dlc2 d2 ready2 fits2 long2
  obtain ⟨t9, exec9, -, rec9, -, second, target, -, kept9⟩ := pe9WritesLambdas s dlc9 d9 ready9 fits9 long9
  refine ⟨fun both => ⟨?_, ?_⟩, fun only => ?_, fun only => ?_⟩
  · obtain ⟨ready, hcfg⟩ := ready9.of_recognized rec2
    obtain ⟨u, hu, -, -, -, -, -, last, -⟩ := pe9WritesLambdas t2 dlc9 d9 ready (hcfg ▸ fits9) long9
    exact ⟨t2, u, exec2, hu, last (by rw [hcfg, both]; nofun)⟩
  · obtain ⟨ready, hcfg⟩ := ready2.of_recognized rec9
    obtain ⟨u, hu, -, -, -, -, -, last, -⟩ := pe2WritesPressuresAndLambda t9 dlc2 d2 ready (hcfg ▸ fits2) long2
    exact ⟨t9, u, exec9, hu, last (by rw [hcfg, both]; nofun)⟩
  · obtain ⟨-, -, -, hraf, -⟩ := rec9
    exact ⟨t9, exec9, hraf, kept9 only, second, target⟩
  · obtain ⟨-, -, -, hraf, -⟩ := rec2
    exact ⟨t2, exec2, hraf, kept2 only⟩

/-- The same state built with another P_OIL_SOURCE (R11, R199). -/
abbrev State.builtWithOilSource (s : State) (o : OilSource) : State := { s with cfg := { s.cfg with oilSource := o } }

/-- P_OIL_SOURCE moves no row but the oil row (R199). -/
theorem mem_writingRowsOf_oilSource {s : State} (ht : s.cfg.fieldTable = defaultFieldTable) {row : Descriptor}
    (hd : row.dest ≠ some (.val .oilPsi)) (o : OilSource) (r : PE) :
    row ∈ writingRowsOf (s.builtWithOilSource o).cfg r ↔ row ∈ writingRowsOf s.cfg r := by
  have no_oil (o : OilSource) : ¬ (o.frame = r ∧ row = rowOil o.offset) := fun ⟨_, e⟩ => hd (e ▸ rfl)
  simp only [mem_writingRowsOf, mem_rowsOf ht, mem_rowsOf (c := (s.builtWithOilSource o).cfg) ht, no_oil, false_or]

section OilSource
variable {s : State} {r : PE} {dlc : BitVec 4} {o : OilSource} (h : Passes s r dlc)
  (h' : Passes (s.builtWithOilSource o) r dlc) (d : Payload)
include h h'

/-- Where P_OIL_SOURCE points does not change what a recognized frame leaves in `rpm` (R199). -/
theorem rpm_oilSource :
    (recognizedState r dlc d s).tx.snap.rpm = (recognizedState r dlc d (s.builtWithOilSource o)).tx.snap.rpm := by
  have same {row : Descriptor} (hd : row.dest = some .rpm) :=
    mem_writingRowsOf_oilSource h.table (row := row) (by rw [hd]; nofun) o r
  by_cases named : ∃ row ∈ writingRowsOf s.cfg r, row.dest = some .rpm
  · obtain ⟨row, hrow, hd⟩ := named
    rw [h.rpm_of_row d hrow hd, h'.rpm_of_row d ((same hd).mpr hrow) hd]
  · have unnamed : ∀ row ∈ writingRowsOf s.cfg r, row.dest ≠ some .rpm := fun row hrow hd => named ⟨row, hrow, hd⟩
    rw [h.rpm_kept d unnamed, h'.rpm_kept d fun row hrow hd => unnamed row ((same hd).mp hrow) hd]

/-- Nor in a field other than the oil pressure (R199). -/
theorem get_oilSource {f : Field} (hf : f ≠ .oilPsi) : (recognizedState r dlc d s).tx.snap.get f
    = (recognizedState r dlc d (s.builtWithOilSource o)).tx.snap.get f := by
  have same {row : Descriptor} (hd : row.dest = some (.val f)) :=
    mem_writingRowsOf_oilSource h.table (row := row) (by simpa [hd] using hf) o r
  by_cases named : ∃ row ∈ writingRowsOf s.cfg r, row.dest = some (.val f)
  · obtain ⟨row, hrow, hd⟩ := named
    rw [h.get_of_row d hrow hd, h'.get_of_row d ((same hd).mpr hrow) hd]
  · have unnamed : ∀ row ∈ writingRowsOf s.cfg r, row.dest ≠ some (.val f) := fun row hrow hd => named ⟨row, hrow, hd⟩
    rw [h.get_kept d unnamed, h'.get_kept d fun row hrow hd => unnamed row ((same hd).mp hrow) hd]

end OilSource

/-- With DLC 8 a message of the default table passes at the default P_OIL_SOURCE too (R11, R158). -/
theorem Passes.default_oilSource {s : State} {r : PE} {dlc : BitVec 4} (h : Passes s r dlc) (long : 8 ≤ dlc.toNat) :
    Passes (s.builtWithOilSource defaultOilSource) r dlc := by
  obtain ⟨running, table, active⟩ := h.ready
  have two_le : 2 ≤ clampDlc dlc := le_min (le_trans (by decide) long) (by decide)
  obtain ⟨-, eight⟩ := minDlc_default_bounds r
  exact ⟨⟨running, table, (isActive_iff _ r).mpr ((isActive_iff s.cfg r).mp active)⟩,
    minDlc_le_of_oilFits (c := (s.builtWithOilSource defaultOilSource).cfg) table (fun _ => two_le) (eight.trans long)⟩

/-- Settles O42: at either P_OIL_SOURCE a field but the oil pressure gets the value of the same row, or stands. -/
theorem oilSourceOverride : Obligations.OilSourceOverride := by
  intro s r dlc d running table _ active enough
  have pass : Passes s r dlc := ⟨⟨running, table, active⟩, enough⟩
  refine ⟨_, pass.exec_ofKey d, rfl, ⟨rfl, rfl, rfl⟩, rfl, fun here => ?_, fun here => pass.oilPressure d here.symm,
    fun elsewhere => pass.oilPsi_kept d elsewhere.symm, fun long => ?_⟩
  · exact rowEnd_le_minDlc (d := rowOil s.cfg.oilSource.offset) ((mem_rowsOf table).mpr (.inl ⟨here.symm, rfl⟩))
  · have pass' := pass.default_oilSource long
    exact ⟨_, pass'.exec_ofKey d, rfl, rpm_oilSource pass pass' d, fun _ hf => get_oilSource pass pass' d hf⟩

/-- A frame of a message outside the active table is dropped (R202). -/
theorem keyedFrame_inactive {s : State} {r : PE} (hh : s.tx.halted = false) (ha : isActive s.cfg r = false)
    (dlc : BitVec 4) (data : Payload) : keyedFrame r dlc data s = .next (s.ended .ignUnknownId) := by
  simp only [keyedFrame, unlessHalted_running (b := .tx) hh, ha, drop_next]

/-- What a BASIC routine writes is the destination of a row that BASIC has (R200). -/
theorem basic_write {c : Params} {r : PE} {d : Payload} {w : Write} (hv : c.variant = .basic)
    (hw : w ∈ routine c r d) :
    ((∃ v, w = .rpm v) ∨ ∃ f v, w = .val f v ∧ f.isBasic = true) ∧ (r = .pe3 → ∃ v, w = .val .oilPsi v) := by
  obtain ⟨row, hrow, he⟩ := mem_routine.mp hw
  have kept := inBasic_of_mem_rowsOf hv (mem_writingRowsOf.mp hrow).1
  simp only [inBasic, isOilPsiRow, Bool.and_eq_true, Bool.or_eq_true, bne_iff_ne, decide_eq_true_eq,
    ← imp_iff_not_or] at kept
  obtain ⟨basic, oilOnly⟩ := kept
  cases w with
  | rpm v =>
    obtain ⟨hd, -⟩ := evalRow_eq_rpm.mp he
    exact ⟨.inl ⟨v, rfl⟩, fun hr => absurd (hd.symm.trans (oilOnly hr)) nofun⟩
  | val f v =>
    obtain ⟨hd, -⟩ := evalRow_eq_val.mp he
    refine ⟨.inr ⟨f, v, rfl, by simpa [isBasicRow, hd] using basic⟩, fun hr => ⟨v, ?_⟩⟩
    simpa [hd] using oilOnly hr

/-- Settles O44: an ID outside the active table selects nothing, and each row of a BASIC routine is one that BASIC
has. -/
theorem leftOutMessagesAreUnknown : Obligations.LeftOutMessagesAreUnknown := by
  refine ⟨fun s r dlc d running leftOut => ?_, fun s id dlc d running unknown => ?_,
    fun c r d w => basic_write⟩
  · have inactive : isActive s.cfg r = false := by
      rw [Bool.eq_false_iff, Ne, isActive_iff]
      rcases leftOut with ⟨hv, hr⟩ | ⟨rfl, hid⟩
      · simp [hv, hr]
      · simp [hid]
    rw [exec_ofKey]
    exact ⟨_, keyedFrame_inactive running inactive dlc d, onlyAnswers_ended s _⟩
  · have none : lookup s.cfg id = none := Option.eq_none_iff_forall_ne_some.mpr fun r hl =>
      have ⟨active, hid⟩ := active_of_lookup hl
      unknown r active hid
    exact ⟨_, frame_unknown running none, onlyAnswers_ended s _⟩

end Sys2Proof.Machine

/-! ## EMIT behind its guards, and TX_DONE (R234 to R236) -/

namespace Sys2Proof.Machine

section Guards
variable {s : State}

/-- Before the first recognized frame the gate suppresses an emission (R234). -/
theorem gated_suppressed (hraf : s.tx.hraf = false) (k : Result) : gated s k = .next (s.ended .suppressed) := by
  simp only [gated, hraf, drop_next]

/-- While a packet is outstanding an emission is held (R235). -/
theorem gated_held (hraf : s.tx.hraf = true) (handshake : s.cfg.txHandshake = true) (busy : s.tx.txBusy = true)
    (k : Result) : gated s k = .next s.held := by
  simp only [gated, hraf, handshake, busy, Bool.and_true]

/-- A held command leaves its answer and nothing else (R235). -/
theorem onlyAnswers_held (s : State) : OnlyAnswers .hold s s.held :=
  ⟨⟨rfl, rfl, rfl⟩, ⟨rfl, rfl, rfl⟩, rfl, rfl⟩

/-- On a block that runs, EMIT is what gate and hold let through. -/
theorem exec_emit_of_running (hh : s.tx.halted = false) : exec .emit s = gated s (.next (emittedState s)) :=
  unlessHalted_running (b := .tx) hh _

theorem exec_txDone (s : State) : exec .txDone s = execTxDone s := rfl

/-- The state after TX_DONE (R236). -/
abbrev sentState (s : State) : State := (s.withTx (s.tx.setBusy s.cfg.txHandshake false)).ended .ok

/-- TX_DONE on a block that runs (R236). -/
theorem exec_txDone_of_running (hh : s.tx.halted = false) : exec .txDone s = .next (sentState s) := by
  rw [exec_txDone, execTxDone, unlessHalted_running (b := .tx) hh]

/-- Once the outstanding packet is sent, nothing holds an emission back (R235, R236). -/
theorem mayEmit_sentState (hh : s.tx.halted = false) (hraf : s.tx.hraf = true) : MayEmit (sentState s) :=
  ⟨hh, hraf, fun handshake => if_pos handshake⟩

end Guards

/-- Settles O45: the gate suppresses, the hold holds, and TX_DONE takes the held block to one that may emit. -/
theorem emitIsSuppressedOrHeld : Obligations.EmitIsSuppressedOrHeld := by
  intro s hh
  refine ⟨fun hraf => ?_, fun hraf handshake busy => ?_⟩
  · have suppressed : exec .emit s = .next (s.ended .suppressed) :=
      (exec_emit_of_running hh).trans (gated_suppressed hraf _)
    exact ⟨_, suppressed, onlyAnswers_ended s _⟩
  · have held : exec .emit s = .next s.held := (exec_emit_of_running hh).trans (gated_held hraf handshake busy _)
    have sent : exec .txDone s.held = .next (sentState s.held) := exec_txDone_of_running hh
    have free : MayEmit (sentState s.held) := mayEmit_sentState hh hraf
    exact ⟨_, held, onlyAnswers_held s, _, _, _, sent, exec_emit_of_mayEmit free, rfl⟩

/-- Settles O47: a running block takes the state after TX_DONE, a halted one meets the guard. -/
theorem txDoneClearsBusy : Obligations.TxDoneClearsBusy := by
  intro s
  constructor
  · intro hh
    exact ⟨sentState s, exec_txDone_of_running hh, ⟨rfl, rfl, rfl⟩, ⟨rfl, rfl, rfl⟩, rfl, rfl⟩
  · intro hh
    rw [exec_txDone, execTxDone, unlessHalted_halted (b := .tx) hh]

/-! ## A packet emitted and decoded (R239) -/

/-- A u8 field that holds its stored integer reconstructs its value (R239, R262). -/
theorem reconstructs_unpackB {v s : ℚ} {p : List Byte} {k : Nat} (hs : 0 < s)
    (h : ((pktByte p k).toNat : Int) = quant v s .u8) : Reconstructs v s .u8 (unpackB p k s) := by
  have stored : ((pktByte p k).toNat : ℚ) = (quant v s .u8 : ℚ) := by rw [← h, Int.cast_natCast]
  rw [unpackB, stored]
  exact reconstructs_quant hs v .u8

/-- Settles O48: PKT_IN takes what EMIT packs, and each field reads back its stored integer. -/
theorem packetRoundTrip : Obligations.PacketRoundTrip := by
  intro s r h hh
  obtain ⟨t, p, hexec, emitted, hseq, -, hlen, hcounter, hrpm, hmap, htps, hoil, hcoolant, hlambda, hbatt,
    hfl, hfr, hbl, hbr⟩ := emitPacksTheSnapshot s h
  obtain ⟨-, hout, -⟩ := emitted
  have counter : pktWord p 0 = t.tx.seq := by
    apply BitVec.eq_of_toNat_eq
    rw [hcounter, hseq, toNat_succ16]
  have speed : pktWord p 2 = s.tx.snap.rpm := by
    apply BitVec.eq_of_toNat_eq
    exact_mod_cast hrpm.trans (quant_word s.tx.snap.rpm)
  have half : (0 : ℚ) < 1 / 2 := by norm_num
  have tenth : (0 : ℚ) < 1 / 10 := by norm_num
  have hundredth : (0 : ℚ) < 1 / 100 := by norm_num
  exact ⟨t, p, packetAcceptedState p r, hexec, congrArg Output.packet hout, exec_pktIn_of_length hh hlen,
    counter, speed,
    reconstructs_unpackU tenth hmap, reconstructs_unpackU tenth htps,
    reconstructs_unpackS tenth hoil, reconstructs_unpackS tenth hcoolant,
    reconstructs_unpackB hundredth hlambda, reconstructs_unpackB tenth hbatt,
    reconstructs_unpackU half hfl, reconstructs_unpackU half hfr,
    reconstructs_unpackU half hbl, reconstructs_unpackU half hbr⟩

end Sys2Proof.Machine

/-! ## The packet decoder (R260 to R265) -/

namespace Sys2Proof.Machine

section RxFrames
variable (s : State)

/-- What an accepted datagram does lies within the RX block, whatever it leaves there (R48, R260, R293). -/
theorem onlyRx_endedWithGap (r : Rx) (gap : Option Nat) : OnlyRx s ((s.withRx r).endedWithGap gap) :=
  ⟨rfl, rfl, rfl, rfl, rfl⟩

/-- A dropped datagram leaves its code alone (R26, R264). -/
theorem onlyRx_ended (c : Code) : OnlyRx s (s.ended c) := ⟨rfl, rfl, rfl, rfl, rfl⟩

end RxFrames

/-- PKT_IN drops a datagram of any length but 22 (R264). -/
theorem exec_pktIn_of_length_ne {s : State} {b : List Byte} (hh : s.rx.halted = false) (hl : b.length ≠ 22) :
    exec (.pktIn b) s = .next (s.ended .dropLength) := by
  rw [exec_pktIn, execPktIn, unlessHalted_running (b := .rx) hh, if_neg hl, drop_next]

/-- Settles O51: the drop answers its code and leaves the state. -/
theorem pktInDropsOtherLengths : Obligations.PktInDropsOtherLengths := fun s _ hh hl =>
  ⟨s.ended .dropLength, exec_pktIn_of_length_ne hh hl, onlyRx_ended s _, rfl, rfl⟩

section AcceptedPacket
variable (b : List Byte) (s : State)

/-- An accepted packet replaces the whole RX snapshot (R261). -/
theorem packetAcceptedState_snap : (packetAcceptedState b s).rx.snap = snapshotOfPacket b := rfl

/-- The framed registers are not PKT_IN's (R42). -/
theorem packetAcceptedState_framed :
    (packetAcceptedState b s).rx.fsnap = s.rx.fsnap ∧ (packetAcceptedState b s).rx.fvalid = s.rx.fvalid
      ∧ (packetAcceptedState b s).rx.fhaveLast = s.rx.fhaveLast
      ∧ (packetAcceptedState b s).rx.flastSeq8 = s.rx.flastSeq8 := ⟨rfl, rfl, rfl, rfl⟩

end AcceptedPacket

/-- Settles O50: the accepted state holds the packet's snapshot, whose fields are the bytes at R120's offsets. -/
theorem pktInDecodesThePacket : Obligations.PktInDecodesThePacket := by
  intro s b hh hl
  obtain ⟨fsnap, fvalid, fhaveLast, flastSeq8⟩ := packetAcceptedState_framed b s
  refine ⟨packetAcceptedState b s, exec_pktIn_of_length hh hl, onlyRx_endedWithGap s _ _, rfl, rfl, ?_⟩
  rw [packetAcceptedState_snap]
  exact ⟨rfl, rfl, rfl, rfl, rfl, rfl, rfl, rfl, rfl, rfl, rfl, rfl, fsnap, fvalid, fhaveLast, flastSeq8, rfl⟩

/-! ### The gap monitor (R263) -/

section Wrapping
variable {w : Nat}

/-- A wrapping difference is the integers' difference modulo the range of the width. -/
theorem toNat_sub_eq_emod (x y : BitVec w) :
    ((x - y).toNat : Int) = ((x.toNat : Int) - y.toNat) % (2 ^ w : Nat) := by
  rw [BitVec.toNat_sub, Int.natCast_emod, Int.natCast_add, Int.natCast_sub y.isLt.le,
    show ((2 ^ w : Nat) : Int) - y.toNat + x.toNat = x.toNat - y.toNat + (2 ^ w : Nat) by ring,
    Int.add_emod_right]

/-- The counters' wrapping difference less one is the gap, modulo the range of the counter (R263, R294). -/
theorem toNat_sub_sub_one (c last : BitVec w) :
    ((c - last - 1).toNat : Int) = ((c.toNat : Int) - last.toNat - 1) % (2 ^ w : Nat) := by
  have one : ((1 : BitVec w).toNat : Int) = 1 % (2 ^ w : Nat) := by simp
  rw [toNat_sub_eq_emod, toNat_sub_eq_emod, one, ← Int.sub_emod]

end Wrapping

section Gap16
variable (last c : Word16)

/-- Without P_RX_GAP there is no gap (R263). -/
@[simp] theorem gap16_unmonitored (haveLast : Bool) : gap16 false haveLast last c = none := rfl

/-- The first accepted packet has gap 0 (R263). -/
@[simp] theorem gap16_first : gap16 true false last c = some 0 := rfl

/-- After an earlier packet the gap is the counters' wrapping difference less one (R263). -/
@[simp] theorem gap16_later : gap16 true true last c = some (c - last - 1).toNat := rfl

end Gap16

/-- Settles O52, by the three cases of the gap and the two of the gap registers. -/
theorem pktInReportsTheGap : Obligations.PktInReportsTheGap := by
  intro s b hh hl
  refine ⟨packetAcceptedState b s, exec_pktIn_of_length hh hl, fun on => ?_, fun off => ?_⟩
  · refine ⟨by simp [on], by simp [on, pktWord], fun first => by simp [on, first], fun later => ?_⟩
    exact ⟨_, by simp [on, later], toNat_sub_sub_one (pktWord b 0) s.rx.lastSeq⟩
  · simp [off]

end Sys2Proof.Machine

/-! ## The framed variant (R291 to R294) -/

namespace Sys2Proof.Machine

/-! ### FRAMED_IN of a good datagram (R291, R293, R294) -/

section AcceptedDatagram
variable (b : List Byte) (s : State)

/-- An accepted datagram replaces the whole framed snapshot (R293). -/
theorem datagramAcceptedState_fsnap : (datagramAcceptedState b s).rx.fsnap = snapshotOfDatagram b := rfl

/-- The 22-byte registers are not FRAMED_IN's (R42, R293). -/
theorem datagramAcceptedState_unframed :
    (datagramAcceptedState b s).rx.snap = s.rx.snap ∧ (datagramAcceptedState b s).rx.valid = s.rx.valid
      ∧ (datagramAcceptedState b s).rx.haveLast = s.rx.haveLast
      ∧ (datagramAcceptedState b s).rx.lastSeq = s.rx.lastSeq := ⟨rfl, rfl, rfl, rfl⟩

end AcceptedDatagram

section Gap8
variable (last n : Byte)

/-- Without P_RX_GAP there is no gap (R293). -/
@[simp] theorem gap8_unmonitored (haveLast : Bool) : gap8 false haveLast last n = none := rfl

/-- The first accepted datagram has gap 0 (R293). -/
@[simp] theorem gap8_first : gap8 true false last n = some 0 := rfl

/-- After an earlier datagram the gap is the numbers' wrapping difference less one (R293, R294). -/
@[simp] theorem gap8_later : gap8 true true last n = some (n - last - 1).toNat := rfl

end Gap8

/-- Settles O58: the accepted state holds the datagram's snapshot, whose fields are the bytes at R124's offsets,
and the gap has its three cases. -/
theorem framedInDecodesTheDatagram : Obligations.FramedInDecodesTheDatagram := by
  intro s b hh hf hl h0 h1 h3
  have passes : datagramFault b = none := datagramFault_eq_none.mpr ⟨hl, h0, h1, h3⟩
  obtain ⟨snap, valid, haveLast, lastSeq⟩ := datagramAcceptedState_unframed b s
  refine ⟨datagramAcceptedState b s, exec_framedIn_of_passes hh hf passes, onlyRx_endedWithGap s _ _, rfl, rfl, ?_⟩
  rw [datagramAcceptedState_fsnap]
  refine ⟨rfl, join32_toNat .., rfl, rfl, rfl, rfl, rfl, rfl, rfl, rfl, rfl, rfl, rfl, rfl, rfl, rfl, rfl,
    snap, valid, haveLast, lastSeq, rfl, fun on => ?_, fun off => ?_⟩
  · refine ⟨by simp [on], by simp [on], fun first => by simp [on, first], fun later => ?_⟩
    exact ⟨_, by simp [on, later], toNat_sub_sub_one (pktByte b 2) s.rx.flastSeq8⟩
  · simp [off]

/-! ### The checks of FRAMED_IN (R293) -/

section Checks
variable {b : List Byte}

/-- Check 1: a datagram without a whole header is too short. -/
theorem datagramFault_of_headless (h : b.length < 4) : datagramFault b = some .dropLength := if_pos h

/-- Check 2: the preamble. -/
theorem datagramFault_of_preamble (hl : 4 ≤ b.length) (h : pktByte b 0 ≠ 0xAA) :
    datagramFault b = some .dropPreamble := by
  rw [datagramFault, if_neg (not_lt.mpr hl), if_pos h]

/-- Check 3: the version. -/
theorem datagramFault_of_version (hl : 4 ≤ b.length) (h0 : pktByte b 0 = 0xAA) (h : pktByte b 1 ≠ 0x01) :
    datagramFault b = some .dropVersion := by
  rw [datagramFault, if_neg (not_lt.mpr hl), if_neg (not_not.mpr h0), if_pos h]

/-- Check 4: the declared length of the payload. -/
theorem datagramFault_of_declared (hl : 4 ≤ b.length) (h0 : pktByte b 0 = 0xAA) (h1 : pktByte b 1 = 0x01)
    (h : pktByte b 3 ≠ 34) : datagramFault b = some .dropDeclaredLength := by
  rw [datagramFault, if_neg (not_lt.mpr hl), if_neg (not_not.mpr h0), if_neg (not_not.mpr h1), if_pos h]

/-- Check 5: the length of the whole datagram. -/
theorem datagramFault_of_total (hl : 4 ≤ b.length) (h0 : pktByte b 0 = 0xAA) (h1 : pktByte b 1 = 0x01)
    (h3 : pktByte b 3 = 34) (h : b.length ≠ 38) : datagramFault b = some .dropLength := by
  rw [datagramFault, if_neg (not_lt.mpr hl), if_neg (not_not.mpr h0), if_neg (not_not.mpr h1),
    if_neg (not_not.mpr h3), if_pos h]

/-- FRAMED_IN drops a datagram with the code of the first check it fails (R293). -/
theorem exec_framedIn_of_fault {s : State} {c : Code} (hh : s.rx.halted = false) (hf : s.cfg.framed = true)
    (hb : datagramFault b = some c) : exec (.framedIn b) s = .next (s.ended c) := by
  rw [exec_framedIn, execFramedIn, unlessHalted_running (b := .rx) hh, ifFramed_present hf]
  simp only [hb, drop_next]

end Checks

/-- Settles O57: each clause is one check's failure, and the drop answers its code and leaves the state. -/
theorem framedInChecksInOrder : Obligations.FramedInChecksInOrder := by
  intro s b hh hf c failed
  have fault : datagramFault b = some c := by
    rcases failed with ⟨h, rfl⟩ | ⟨hl, h, rfl⟩ | ⟨hl, h0, h, rfl⟩ | ⟨hl, h0, h1, h, rfl⟩ | ⟨hl, h0, h1, h3, h, rfl⟩
    · exact datagramFault_of_headless h
    · exact datagramFault_of_preamble hl h
    · exact datagramFault_of_version hl h0 h
    · exact datagramFault_of_declared hl h0 h1 h
    · exact datagramFault_of_total hl h0 h1 h3 h
  exact ⟨s.ended c, exec_framedIn_of_fault hh hf fault, onlyRx_ended s c, rfl, rfl⟩

/-! ### FRAMED_EMIT behind its guards (R292) -/

/-- On a block that runs, FRAMED_EMIT is what gate and hold let through. -/
theorem exec_framedEmit_of_running {s : State} (hh : s.tx.halted = false) (hf : s.cfg.framed = true)
    (ts : Word32) : exec (.framedEmit ts) s = gated s (.next (framedEmittedState ts s)) := by
  rw [exec_framedEmit, execFramedEmit, unlessHalted_running (b := .tx) hh, ifFramed_present hf]

/-- Settles O55: the gate suppresses and the hold holds, as for EMIT. -/
theorem framedEmitIsSuppressedOrHeld : Obligations.FramedEmitIsSuppressedOrHeld := by
  intro s ts hh hf
  have guarded := exec_framedEmit_of_running hh hf ts
  refine ⟨fun hraf => ?_, fun hraf handshake busy => ?_⟩
  · exact ⟨_, guarded.trans (gated_suppressed hraf _), onlyAnswers_ended s _⟩
  · exact ⟨_, guarded.trans (gated_held hraf handshake busy _), onlyAnswers_held s⟩

end Sys2Proof.Machine

/-! ## RESET, HALT and the halted block (R320 to R322, R403) -/

namespace Sys2Proof.Machine

/-- Every instruction but RESET runs behind the halted check of its block, with no check before it: each meaning
opens with that guard (R322, R403). -/
theorem exec_eq_unlessHalted (i : Instr) (s : State) (hi : ∀ b, i ≠ .reset b) :
    ∃ k, exec i s = unlessHalted i.block s k := by
  cases i with
  | reset b => exact absurd rfl (hi b)
  | _ => exact ⟨_, rfl⟩

/-- A halted block has no step but RESET (R322). -/
theorem exec_of_halted {i : Instr} {s : State} (hh : isHalted s i.block = true) (hi : ∀ b, i ≠ .reset b) :
    exec i s = .fault (.stuck i.block) := by
  obtain ⟨k, guarded⟩ := exec_eq_unlessHalted i s hi
  rw [guarded, unlessHalted_halted hh]

/-- On a halted block no record is refused by name: the stuck check comes first (R403). -/
theorem rejected_of_halted {p : Presented} {s : State} (hh : isHalted s p.port.block = true) (r : Reject) :
    rejected p r s = .fault (.stuck p.port.block) := unlessHalted_halted hh _

/-- Settles O19, by the guard that instructions and rejected records share. -/
theorem haltedBlockIsStuck : Obligations.HaltedBlockIsStuck :=
  ⟨fun _ _ => exec_of_halted, fun _ _ _ r hp hd hh => (step_of_reject hp hd).trans (rejected_of_halted hh r)⟩

theorem Tx.allZero_zero : Tx.zero.AllZero :=
  ⟨Snapshot.zero_rpm, Snapshot.get_zero, rfl, rfl, rfl, rfl, rfl⟩

theorem Rx.allZero_zero : Rx.zero.AllZero := ⟨rfl, rfl, rfl, rfl, rfl, rfl, rfl, rfl, rfl⟩

section Commands
variable (s : State)

/-- A command that leaves the TX block as `x` and answers a code lies within that block (R30, R48). -/
theorem onlyTx_withTx_ended (x : Tx) (c : Code) : OnlyTx s ((s.withTx x).ended c) := ⟨rfl, rfl, rfl⟩

/-- A command that leaves the RX block as `r` and answers a code lies within that block (R39, R48). -/
theorem onlyRx_withRx_ended (r : Rx) (c : Code) : OnlyRx s ((s.withRx r).ended c) := ⟨rfl, rfl, rfl, rfl, rfl⟩

/-- A command that ends with a code hands out no packet, whatever registers it writes before (R38). -/
theorem noPacket_ended {s t : State} (h : t.emitted = s.emitted) (c : Code) : NoPacket s (t.ended c) :=
  ⟨h, rfl, rfl⟩

/-- RESET of the TX block has no guard (R320, R322). -/
theorem exec_reset_tx : exec (.reset .tx) s = .next ((s.withTx Tx.zero).ended .ok) := rfl

/-- RESET of the RX block has no guard (R320, R322). -/
theorem exec_reset_rx : exec (.reset .rx) s = .next ((s.withRx Rx.zero).ended .ok) := rfl

theorem exec_halt (b : Block) : exec (.halt b) s = execHalt b s := rfl

/-- HALT of the TX block while it runs (R321). -/
theorem exec_halt_tx_of_running (hh : s.tx.halted = false) :
    exec (.halt .tx) s = .next ((s.withTx s.tx.halt).ended .ok) := by
  rw [exec_halt, execHalt, unlessHalted_running (b := .tx) hh]

/-- HALT of the RX block while it runs (R321). -/
theorem exec_halt_rx_of_running (hh : s.rx.halted = false) :
    exec (.halt .rx) s = .next ((s.withRx s.rx.halt).ended .ok) := by
  rw [exec_halt, execHalt, unlessHalted_running (b := .rx) hh]

end Commands

/-- Settles O17: RESET leaves its block as the zero block, whose registers are all 0. -/
theorem resetCommandResetsItsBlock : Obligations.ResetCommandResetsItsBlock := fun s =>
  ⟨⟨_, exec_reset_tx s, Tx.allZero_zero, rfl, onlyTx_withTx_ended s _ _, noPacket_ended rfl _, rfl⟩,
    ⟨_, exec_reset_rx s, Rx.allZero_zero, rfl, onlyRx_withRx_ended s _ _, noPacket_ended rfl _, rfl⟩⟩

/-- Settles O18: on a running block HALT passes its guard and leaves the block's `halt`. -/
theorem haltCommandHaltsItsBlock : Obligations.HaltCommandHaltsItsBlock := fun s =>
  ⟨fun hh => ⟨_, exec_halt_tx_of_running s hh, rfl, onlyTx_withTx_ended s _ _, noPacket_ended rfl _, rfl⟩,
    fun hh => ⟨_, exec_halt_rx_of_running s hh, rfl, onlyRx_withRx_ended s _ _, noPacket_ended rfl _, rfl⟩⟩

end Sys2Proof.Machine

/-! ## The reset state (R450) -/

namespace Sys2Proof.Machine

/-- Settles O4: the reset state holds the blocks RESET leaves (R320), whose registers are all 0. -/
theorem resetStateIsZero : Obligations.ResetStateIsZero := ⟨Tx.allZero_zero, Rx.allZero_zero⟩

end Sys2Proof.Machine
